-- ==== Sys2Proof/Word.lean ====
section
/-! DEFINITION. The machine's word types (00_scope R6, R15; 10_state R51, R64). -/

namespace Sys2Proof

/-- A 64-bit value: register contents, addresses, CSR values (XLEN = 64, R6). -/
abbrev Word := BitVec 64

/-- The smallest addressable unit of memory (R200). -/
abbrev Byte := BitVec 8

/-- The bits of one fetched instruction; a compressed one is zero-extended (R304). -/
abbrev Bits := BitVec 32

/-- A general register number, `rd`, `rs1` or `rs2` (R51, R53). -/
abbrev Reg := BitVec 5

/-- A three-bit register field of the compressed formats, naming `x(8 + field)` (R262). -/
abbrev CReg := BitVec 3

/-- A CSR number (R64). -/
abbrev CsrNum := BitVec 12

end Sys2Proof
end

