-- ==== Sys2Proof/Machine/Events.lean ====
section
/-! DEFINITION. The small types the machine is made of: privilege modes, exceptions, interrupts, trap events,
access kinds, trigger trips, queue records and the step context (10_state, 40_step_protocol, 60_exceptions,
61_debug_triggers). -/

namespace Sys2Proof.Machine

/-- Privilege levels (R60, R702). -/
inductive Priv where
  | u | s | m
  deriving DecidableEq, Repr

/-- The encoding of a privilege level: U 0, S 1, M 3 (R19, R60). -/
def Priv.code : Priv → BitVec 2
  | .u => 0#2
  | .s => 1#2
  | .m => 3#2

/-- The level a two-bit field names; the value 2 names none and is never held (R60, R71). -/
def Priv.ofCode (c : BitVec 2) : Option Priv :=
  if c = 0#2 then some .u else if c = 1#2 then some .s else if c = 3#2 then some .m else none

/-- Access types of the translation and PMP contracts (R203, R204). -/
inductive Acc where
  | fetch | load | store
  deriving DecidableEq, Repr

/-- Synchronous exceptions (R660). -/
inductive Exc where
  | instrMisaligned | instrAccess | illegal | breakpoint
  | loadMisaligned | loadAccess | storeMisaligned | storeAccess
  | ecallU | ecallS | ecallM
  | instrPage | loadPage | storePage
  deriving DecidableEq, Repr

/-- The exception code (R660). -/
def Exc.code : Exc → Nat
  | .instrMisaligned => 0
  | .instrAccess => 1
  | .illegal => 2
  | .breakpoint => 3
  | .loadMisaligned => 4
  | .loadAccess => 5
  | .storeMisaligned => 6
  | .storeAccess => 7
  | .ecallU => 8
  | .ecallS => 9
  | .ecallM => 11
  | .instrPage => 12
  | .loadPage => 13
  | .storePage => 15

/-- The misaligned exception of an access (R215, R216). A fetch is never misaligned (R213). -/
def Acc.misaligned : Acc → Exc
  | .fetch => .instrMisaligned
  | .load => .loadMisaligned
  | .store => .storeMisaligned

/-- The access-fault exception of an access (R204, R205). -/
def Acc.accessFault : Acc → Exc
  | .fetch => .instrAccess
  | .load => .loadAccess
  | .store => .storeAccess

/-- The page-fault exception of an access (R203). -/
def Acc.pageFault : Acc → Exc
  | .fetch => .instrPage
  | .load => .loadPage
  | .store => .storePage

/-- Interrupts (R670). -/
inductive Irq where
  | ssi | msi | sti | mti | sei | mei
  deriving DecidableEq, Repr

/-- The interrupt code, which is also its bit in `mip` and `mie` (R670). -/
def Irq.code : Irq → Nat
  | .ssi => 1
  | .msi => 3
  | .sti => 5
  | .mti => 7
  | .sei => 9
  | .mei => 11

/-- A trap event (R652). -/
inductive TrapEvent where
  | exception (c : Exc) (tval epc : Word)
  | interrupt (i : Irq)
  | nmi (cause : Word)
  deriving DecidableEq, Repr

/-- The kind and cause an instrumentation count is kept for (R698). -/
inductive CountKey where
  | exception (c : Exc)
  | interrupt (i : Irq)
  | nmi (cause : Word)
  deriving DecidableEq, Repr

def TrapEvent.key : TrapEvent → CountKey
  | .exception c _ _ => .exception c
  | .interrupt i => .interrupt i
  | .nmi c => .nmi c

/-- Debug-mode entry causes (R780). -/
inductive DebugCause where
  | ebreak | trigger | haltReq | step
  deriving DecidableEq, Repr

/-- `dcsr.cause` (R140, R780). -/
def DebugCause.code : DebugCause → BitVec 3
  | .ebreak => 1#3
  | .trigger => 2#3
  | .haltReq => 3#3
  | .step => 4#3

/-- What a trigger evaluation compares (R760). -/
inductive TrigKind where
  | execAddr | execOpcode | loadAddr | loadData | storeAddr | storeData
  deriving DecidableEq, Repr

/-- Before or after timing (R762). -/
inductive Timing where
  | before | after
  deriving DecidableEq, Repr

/-- A chain that tripped: the index of its last slot, whether its action is debug entry, and the trap value of the
check point (R764, R771, R773). -/
structure Trip where
  slot : Nat
  debug : Bool
  tval : Word
  deriving DecidableEq, Repr

/-- What a committed load pushes on the load queue (R461, R801). -/
structure LoadRec where
  size : Nat
  addr : Word
  rd : Reg
  prior : Word
  deriving DecidableEq, Repr

/-- What a committed store pushes on the store queue (R461, R802): the prior bytes and the physical address of each,
and the value stored. -/
structure StoreRec where
  size : Nat
  addr : Word
  prior : List Byte
  phys : List Word
  value : Word
  deriving DecidableEq, Repr

/-- The step context of R303, with the instruction's ChangeRecord (R340): the old pc and mode, the register, memory
location and CSRs it wrote with their old values, and the old lock of `mdseac`. It is empty between steps: the model's
own place for what the spec keeps inside one step (log 12). -/
structure Ctx where
  attempted : Bool := false
  retired : Bool := false
  /-- the fetched bits, zero-extended (R294) -/
  bits : Bits := 0
  nextPc : Word := 0
  /-- the old pc (R340) -/
  startPc : Word := 0
  /-- `priv` and `mstatus.MIE` at the start of the instruction (R770) -/
  startPriv : Priv := .m
  startMie : Bool := false
  /-- the old `mdseacLocked`, the only hidden state an instruction that retires can change (R340) -/
  startLocked : Bool := false
  /-- trips of after-timing checks, acted on in phase (f) (R768) -/
  afterTrips : List Trip := []
  /-- the general register the instruction wrote (R310) -/
  wroteX : Option Reg := none
  /-- what that register held before (R314, R340) -/
  oldX : Word := 0
  load : Option LoadRec := none
  store : Option StoreRec := none
  /-- CSR numbers the instruction wrote (R510) -/
  csrWritten : List CsrNum := []
  /-- the CSRs the instruction changed, by a write or a side effect, with their old values (R340, R510) -/
  csrOld : List (CsrNum × Word) := []
  /-- the trigger slot the instruction wrote (R853, log 9) -/
  slotWritten : Option Nat := none
  exceptionTaken : Option Exc := none
  /-- the stored value, when the store covers TOHOST_ADDRESS (R310) -/
  toHost : Option Word := none
  enteredDebug : Bool := false
  /-- the given instruction word of a what-if step (R816) -/
  fetchOverride : Option Bits := none
  deriving DecidableEq, Repr

/-- The physical memory's contents: (address, byte) pairs (Host.Cell), in the canonical form of `Memory.wf`. -/
abbrev Memory := List Host.Cell

/-- A request of `sfence.vma` to the translation collaborator (R556). -/
structure Flush where
  vaddr : Option Word
  asid : Option Word
  deriving DecidableEq, Repr

end Sys2Proof.Machine
end

