-- ==== Sys2Proof/Machine/Memory.lean ====
section
/-! DEFINITION. Physical memory contents as a list of cells in one canonical form: addresses strictly rising, no entry
equal to what an unlisted address reads as (20_memory R201, R202). Which addresses exist is the memory map's
(Machine/Platform.lean). -/

namespace Sys2Proof.Machine

/-- What a byte no one has written reads as: 0 (DESIGN CHOICE, log 3). -/
def Memory.unlisted : Byte := 0#8

/-- The canonical form. -/
abbrev Memory.wf (m : Memory) : Prop :=
  m.Pairwise (fun p q => p.1 < q.1) ∧ ∀ p ∈ m, p.2 ≠ Memory.unlisted

/-- The byte at an address. -/
def Memory.read : Memory → Nat → Byte
  | [], _ => Memory.unlisted
  | (k, b) :: t, a => if k < a then Memory.read t a else if k = a then b else Memory.unlisted

/-- Set the byte at an address, keeping the canonical form. -/
def Memory.write : Memory → Nat → Byte → Memory
  | [], a, v => if v = Memory.unlisted then [] else [(a, v)]
  | (k, b) :: t, a, v =>
    if k < a then (k, b) :: Memory.write t a v
    else if k = a then (if v = Memory.unlisted then t else (a, v) :: t)
    else if v = Memory.unlisted then (k, b) :: t else (a, v) :: (k, b) :: t

/-- Little-endian assembly of bytes, the first the least significant (R208). -/
def leValue : List Byte → Word
  | [] => 0#64
  | b :: t => (leValue t <<< 8) ||| b.setWidth 64

/-- The low `n` bytes of a value, least significant first (R208). -/
def leBytes : Nat → Word → List Byte
  | 0, _ => []
  | n + 1, v => v.setWidth 8 :: leBytes n (v >>> 8)

end Sys2Proof.Machine
end

