-- ==== Sys2Proof/Config.lean ====
section
/-! DEFINITION. The parameters of a hart (00_scope R11), held as plain data so that a statement about every state is a
statement about every configuration (log 1), and the free values: what the external collaborators answer where the
spec gives only their contract (20_memory R202 to R206). The values a hart resets with are Machine/Platform.lean. -/

namespace Sys2Proof.Machine

/-- `MISALIGNED_DATA` (R212). -/
inductive MisalignedData where
  | split | trap
  deriving DecidableEq, Repr

/-- `ILLEGAL_TVAL` (R662). -/
inductive IllegalTval where
  | instruction | zero
  deriving DecidableEq, Repr

/-- Which PMP collaborator the core calls (R204): any one (`external`, its answers free), or the matching of the
privileged architecture 1.11 over this core's PMP CSRs (`privileged111`, PRESUMED, log 6). -/
inductive PmpUnit where
  | external | privileged111
  deriving DecidableEq, Repr

/-- What a region holds (R202): memory, ICCM, DCCM, or memory-mapped registers of a device. -/
inductive RegionKind where
  | memory | iccm | dccm | mmr
  deriving DecidableEq, Repr

/-- One region of the platform's memory map (R202, R221). -/
structure Region where
  base : Nat
  size : Nat
  readable : Bool
  writable : Bool
  executable : Bool
  kind : RegionKind
  deriving DecidableEq, Repr

/-- A test of an instruction's step record: what a performance event can ask of it (log 7). -/
inductive StepTest where
  /-- the instruction's bits under a mask -/
  | bits (mask value : Bits)
  /-- the next pc is not that of the following instruction: a jump or a taken branch -/
  | transfers
  | writesX
  | loads
  | stores
  | changesCsr
  /-- the mode the instruction executed in -/
  | inMode (p : Priv)
  | negation (t : StepTest)
  | both (t u : StepTest)
  deriving DecidableEq, Repr

/-- `HPM_EVENT` (R11, R82): the events a platform tells apart by tests, an event with no entry never true, so that
`tests []` is the default, always false; or any function whatever, `number` telling two such functions apart
(log 7). -/
inductive HpmEvent where
  | tests (l : List (Word × StepTest))
  | external (number : Nat)
  deriving DecidableEq, Repr

/-- `SECONDARY_CAUSE` (R11, R143): a value for each kind and cause of event, 0 where there is no entry, so that
`byKind []` is the default, always 0; or any function whatever, `number` telling two such functions apart (log 7). -/
inductive SecondaryCause where
  | byKind (l : List (CountKey × BitVec 4))
  | external (number : Nat)
  deriving DecidableEq, Repr

/-- The parameters of R11. -/
structure Config where
  extM : Bool
  extC : Bool
  extS : Bool
  extU : Bool
  extA : Bool
  extF : Bool
  extD : Bool
  hartId : Word
  numHarts : Nat
  resetPc : Word
  nmiPc : Word
  numTriggers : Nat
  triggerEvenOdd : Bool
  loadQueueEnabled : Bool
  loadQueueDepth : Nat
  storeQueueDepth : Nat
  fastIntEnabled : Bool
  clintEnabled : Bool
  clintBase : Word
  stopAddress : Option Word
  tohostAddress : Option Word
  consoleIoAddress : Option Word
  instructionLimit : Option Nat
  stopOnException : Bool
  misalignedData : MisalignedData
  pmpEntries : Nat
  satpModes : List (BitVec 4)
  asidlen : Nat
  numHpm : Nat
  hpmEvent : HpmEvent
  timeCsr : Bool
  mvendorid : Word
  marchid : Word
  mimpid : Word
  illegalTval : IllegalTval
  secondaryCause : SecondaryCause
  nmiCauseLoad : Word
  nmiCauseStore : Word
  nmiCauseFastInt : Word
  xregReset : Vector Word 31
  mtvecReset : Word
  sharedCsrs : List CsrNum
  /-- the platform memory map the memory collaborator reports (R202, R221; log 2) -/
  regions : List Region
  pmpUnit : PmpUnit
  deriving DecidableEq, Repr

/-- Everything the translation collaborator's answer may depend on (R203, R222, R854): the request, the CSR contents
it is computed from, memory (the page tables), the flushes requested so far, and how many steps have run. -/
structure XlatQuery where
  vaddr : Word
  acc : Acc
  priv : Priv
  satp : Word
  sum : Bool
  mxr : Bool
  mem : Memory
  flushes : List Flush
  tick : Nat

/-- Everything an external PMP collaborator's answer may depend on (R204). -/
structure PmpQuery where
  paddr : Word
  size : Nat
  acc : Acc
  priv : Priv
  pmpcfg0 : Word
  pmpcfg2 : Word
  pmpaddr : List Word

/-- FREE VALUE (log 5): the page walk of the translation collaborator, `none` a page fault (R203). -/
opaque Config.translateExternal : XlatQuery → Option Word

/-- FREE VALUE (log 6): an external PMP collaborator's answer, true for allow (R204). -/
opaque Config.pmpExternal : PmpQuery → Bool

/-- FREE VALUE (log 4): the byte a memory-mapped-register region shows at an address, for the device accesses made so
far (R206). -/
opaque Config.deviceByte : Nat → Nat → Byte

/-- FREE VALUE (log 4): whether a device faults an access at an address (R202, R205). -/
opaque Config.deviceFaults : Nat → Acc → Nat → Bool

/-- FREE VALUE (log 7): `HPM_EVENT` as any function of the event and the step record, one for each number (R82, R722). -/
opaque Config.hpmExternal : Nat → Word → Ctx → Bool

/-- FREE VALUE (log 7): `SECONDARY_CAUSE` as any function of the trap event, one for each number (R143). -/
opaque Config.secondaryExternal : Nat → TrapEvent → BitVec 4

/-- The legal privilege levels of a configuration (R60). -/
def Config.privLegal (c : Config) : Priv → Bool
  | .u => c.extU
  | .s => c.extS
  | .m => true

end Sys2Proof.Machine
end

