-- ==== Sys2Proof/Machine/Platform.lean ====
section
/-! DEFINITION. The configuration a hart resets with, which configurations the spec admits, and the region queries of
the memory contract (00_scope R5, R7, R11, R12; 20_memory R202, R205, R206). -/

namespace Sys2Proof.Machine

/-- The one memory region of 95_test_vectors' conventions: idempotent, read, write, execute (DESIGN CHOICE, log 2). -/
def Platform.ram : Region :=
  { base := 0x80000000, size := 0x10000, readable := true, writable := true, executable := true, kind := .memory }

/-- The defaults of R11 and R12; the OPEN parameters take the example values of 95_test_vectors (DESIGN CHOICE,
log 1). -/
def Platform.config : Config where
  extM := true
  extC := true
  extS := false
  extU := false
  extA := false
  extF := false
  extD := false
  hartId := 0
  numHarts := 1
  resetPc := 0x80000000
  nmiPc := 0x100
  numTriggers := 4
  triggerEvenOdd := false
  loadQueueEnabled := false
  loadQueueDepth := 4
  storeQueueDepth := 4
  fastIntEnabled := false
  clintEnabled := false
  clintBase := 0
  stopAddress := none
  tohostAddress := none
  consoleIoAddress := none
  instructionLimit := none
  stopOnException := false
  misalignedData := .split
  pmpEntries := 16
  satpModes := [0#4, 8#4, 9#4]
  asidlen := 16
  numHpm := 4
  hpmEvent := .tests []
  timeCsr := false
  mvendorid := 0
  marchid := 0
  mimpid := 0
  illegalTval := .instruction
  secondaryCause := .byKind []
  nmiCauseLoad := 0xF0000000
  nmiCauseStore := 0xF0000001
  nmiCauseFastInt := 0
  xregReset := Vector.replicate 31 0
  mtvecReset := 0
  sharedCsrs := []
  regions := [Platform.ram]
  pmpUnit := .privileged111

/-- An address is a multiple of IALIGN (R13, R58). -/
def Config.pcAligned (c : Config) (a : Word) : Bool :=
  if c.extC then !a.getLsbD 0 else !a.getLsbD 0 && !a.getLsbD 1

/-- `epcMask`: `~1`, or `~3` when EXT_C is false (R85, R685). -/
def Config.epcMask (c : Config) : Word :=
  if c.extC then 0xFFFFFFFFFFFFFFFE else 0xFFFFFFFFFFFFFFFC

/-- The configurations the spec admits; a model refuses the others (R5, R7, R11; log 13). The alignment of CLINT_BASE is
asked only where there is a CLINT, and no list of regions is refused, R322 not saying which geometry is invalid (DESIGN
CHOICE, log 13). -/
def Config.admitted (c : Config) : Bool :=
  !c.extA && (!c.extF && (!c.extD && ((!c.extS || c.extU)
    && (c.pcAligned c.resetPc && (c.pcAligned c.nmiPc
    && (decide (1 ≤ c.numHarts) && (decide (c.numTriggers ≤ 16)
    && (decide (1 ≤ c.loadQueueDepth) && (decide (1 ≤ c.storeQueueDepth)
    && ((!c.clintEnabled || c.clintBase.toNat % 65536 == 0)
    && (decide (c.pmpEntries ≤ 16) && (decide (c.asidlen ≤ 16) && (decide (c.numHpm ≤ 29)
    && (c.satpModes.contains 0#4 && c.satpModes.all (fun m => m == 0#4 || m == 8#4 || m == 9#4)))))))))))))))

/-- Whether the extension of an opcode-table row is enabled (R290). -/
def Config.hasExt (c : Config) : Ext → Bool
  | .i => true
  | .m => c.extM
  | .c => c.extC
  | .s => c.extS

/-- The region that backs a physical byte address, if any (R201); of several the first listed (DESIGN CHOICE, log 2). -/
def Config.regionAt (c : Config) (b : Nat) : Option Region :=
  c.regions.find? (fun r => decide (r.base ≤ b) && decide (b < r.base + r.size))

/-- `readable`, `writable`, `executable` of R202, by access type. -/
def Region.permits (r : Region) : Acc → Bool
  | .fetch => r.executable
  | .load => r.readable
  | .store => r.writable

/-- Whether the memory collaborator backs the byte and permits the access (R205). -/
def Config.permitted (c : Config) (acc : Acc) (b : Nat) : Bool :=
  match c.regionAt b with
  | some r => r.permits acc
  | none => false

/-- `isMmr` of R202. -/
def Config.isMmr (c : Config) (b : Nat) : Bool :=
  match c.regionAt b with
  | some r => r.kind == .mmr
  | none => false

/-- `isIccm` of R202; no rule of the core depends on it. -/
def Config.isIccm (c : Config) (b : Nat) : Bool :=
  match c.regionAt b with
  | some r => r.kind == .iccm
  | none => false

/-- `isDccm` of R202; no rule of the core depends on it. -/
def Config.isDccm (c : Config) (b : Nat) : Bool :=
  match c.regionAt b with
  | some r => r.kind == .dccm
  | none => false

/-- Whether a physical byte address lies in the CLINT region (R710). -/
def Config.inClint (c : Config) (b : Word) : Bool :=
  c.clintEnabled && decide (c.clintBase.toNat ≤ b.toNat) && decide (b.toNat < c.clintBase.toNat + 0x10000)

/-- Whether a byte lies in a non-idempotent region (R206). -/
def Config.nonIdempotent (c : Config) (b : Word) : Bool := c.inClint b || c.isMmr b.toNat

end Sys2Proof.Machine
end

