-- ==== Sys2Proof/Machine/State.lean ====
section
/-! DEFINITION. The state of a hart, as plain data: every piece of state of 10_state, the memory it is bound to, the
step context, and the outcomes of a step. Reset is 70_reset_and_hazards R830. -/

namespace Sys2Proof.Machine

/-- The CSRs that have storage (10_state R69 to R147). Views, shadows and constants have none (`State.csrRead`). -/
structure CsrFile where
  mstatus : Word
  medeleg : Word
  mideleg : Word
  mie : Word
  mtvec : Word
  mcounteren : Word
  mcountinhibit : Word
  /-- `mhpmevent3` first (R82) -/
  mhpmevent : Vector Word 29
  mscratch : Word
  mepc : Word
  mcause : Word
  mtval : Word
  mip : Word
  pmpcfg0 : Word
  pmpcfg2 : Word
  pmpaddr : Vector Word 16
  mcycle : Word
  minstret : Word
  /-- `mhpmcounter3` first (R95) -/
  mhpmcounter : Vector Word 29
  stvec : Word
  scounteren : Word
  sscratch : Word
  sepc : Word
  scause : Word
  stval : Word
  satp : Word
  tselect : Word
  /-- without `nmip`, which reads `nmiPending` (R140) -/
  dcsr : Word
  dpc : Word
  dscratch0 : Word
  dscratch1 : Word
  mscause : Word
  meivt : Word
  mdseac : Word
  /-- `meihap.claimid` (R147) -/
  claimid : BitVec 8
  deriving DecidableEq, Repr

/-- A trigger slot (R148). -/
structure TrigSlot where
  tdata1 : Word
  tdata2 : Word
  deriving DecidableEq, Repr

/-- A load-queue entry (R154, R801). -/
structure LoadEntry where
  size : Nat
  addr : Word
  rd : Reg
  prior : Word
  valid : Bool
  wide : Bool
  tag : Word
  deriving DecidableEq, Repr

/-- A store-queue entry (R154, R802). -/
structure StoreEntry where
  size : Nat
  addr : Word
  prior : List Byte
  phys : List Word
  valid : Bool
  wide : Bool
  tag : Word
  deriving DecidableEq, Repr

/-- The CLINT's registers, one `msip` bit and one `mtimecmp` for each hart (R156, R710). -/
structure Clint where
  msip : List Bool
  mtimecmp : List Word
  mtime : Word
  deriving DecidableEq, Repr

/-- Why a hart is done (R320). -/
inductive StopReason where
  | toHost (v : Word)
  | exception (c : Exc)
  | limit
  | stopAddress
  deriving DecidableEq, Repr

/-- The state of one hart. -/
structure State where
  /-- the hart's parameters, which no step changes (R8, R50) -/
  cfg : Config
  /-- `x1` to `x31`; `x0` has no storage (R51, R52) -/
  x : Vector Word 31
  pc : Word
  priv : Priv
  debugMode : Bool
  csr : CsrFile
  trig : List TrigSlot
  nmiPending : Bool
  nmiCause : Word
  mdseacLocked : Bool
  debugHaltPending : Bool
  stepPending : Bool
  /-- oldest entry first (R154) -/
  loadQueue : List LoadEntry
  storeQueue : List StoreEntry
  loadTag : Word
  clint : Clint
  done : Bool
  stopReason : Option StopReason
  execCount : Nat
  /-- instrumentation counts that are not 0 (R158, R698) -/
  counts : List (CountKey × Nat)
  /-- physical memory contents -/
  mem : Memory
  /-- bytes handed to the host's console, first written first (R220) -/
  consoleOut : List Byte
  /-- the step context; empty between steps (R303, log 12) -/
  ctx : Ctx
  /-- the model's own counter: which free value a device or the page walk shows next (logs 4 and 5) -/
  tick : Nat
  /-- translation flushes requested so far, latest first (R556, log 5) -/
  flushes : List Flush
  deriving DecidableEq, Repr

/-- Why the machine stops with a fault. -/
inductive Fault where
  /-- Raised by `step` on a hart whose configuration the spec tells a model to refuse (R5, R7, R11; log 13). Safe: no
  instruction runs. -/
  | configurationNotAdmitted
  deriving DecidableEq, Repr

/-- Why an instruction has no meaning. -/
inductive Refusal where
  /-- Raised by an arm of `exec` whose instruction has no meaning yet. Safe: nothing runs. -/
  | notModelled (mnemonic : String)
  deriving DecidableEq, Repr

/-- The outcome of a step or of an instruction. -/
abbrev Outcome := Host.Outcome State Fault Refusal

/-- `mstatus` at reset (R70): MPP 3, and UXL, SXL as the configuration has them. -/
def Config.mstatusReset (c : Config) : Word :=
  0x1800#64 ||| (if c.extU then 0x200000000#64 else 0#64) ||| (if c.extS then 0x800000000#64 else 0#64)

/-- The CSRs at reset (R830). -/
def CsrFile.reset (c : Config) : CsrFile where
  mstatus := c.mstatusReset
  medeleg := 0
  mideleg := 0
  mie := 0
  mtvec := c.mtvecReset &&& 0xFFFFFFFFFFFFFFFD#64
  mcounteren := 0
  mcountinhibit := 0
  mhpmevent := Vector.replicate 29 0
  mscratch := 0
  mepc := 0
  mcause := 0
  mtval := 0
  mip := 0
  pmpcfg0 := 0
  pmpcfg2 := 0
  pmpaddr := Vector.replicate 16 0
  mcycle := 0
  minstret := 0
  mhpmcounter := Vector.replicate 29 0
  stvec := 0
  scounteren := 0
  sscratch := 0
  sepc := 0
  scause := 0
  stval := 0
  satp := 0
  tselect := 0
  dcsr := 0x40000003#64
  dpc := 0
  dscratch0 := 0
  dscratch1 := 0
  mscause := 0
  meivt := 0
  mdseac := 0
  claimid := 0

/-- A trigger slot at reset (R759). -/
def TrigSlot.reset : TrigSlot := { tdata1 := 0x27E0000000000000#64, tdata2 := 0#64 }

/-- The CLINT at reset (R710, R711). -/
def Clint.reset (harts : Nat) : Clint where
  msip := List.replicate harts false
  mtimecmp := List.replicate harts 0xFFFFFFFFFFFFFFFF#64
  mtime := 0

/-- A hart of the given configuration right after reset (R830); memory is not hart state and lists nothing here. -/
def State.resetWith (c : Config) : State where
  cfg := c
  x := c.xregReset
  pc := c.resetPc
  priv := .m
  debugMode := false
  csr := CsrFile.reset c
  trig := List.replicate c.numTriggers TrigSlot.reset
  nmiPending := false
  nmiCause := 0
  mdseacLocked := false
  debugHaltPending := false
  stepPending := false
  loadQueue := []
  storeQueue := []
  loadTag := 0
  clint := Clint.reset c.numHarts
  done := false
  stopReason := none
  execCount := 0
  counts := []
  mem := []
  consoleOut := []
  ctx := {}
  tick := 0
  flushes := []

/-- The machine right after reset, in the configuration of `Platform.config`. -/
def State.reset : State := State.resetWith Platform.config

end Sys2Proof.Machine
end

