-- ==== Sys2Proof/Machine/Operands.lean ====
section
/-! DEFINITION. Operand forms: general registers (10_state R51, R52; 40_step_protocol R314), immediates
(30_encoding R264 to R270), and the bit-field helpers the other files use (00_scope R15, R16). -/

namespace Sys2Proof.Machine

/-! ## General registers -/

/-- `x[r]`: `x0` reads 0 (R52). -/
def State.readX (s : State) (r : Reg) : Word :=
  if h : r.toNat = 0 then 0#64 else s.x[r.toNat - 1]'(by have := r.isLt; omega)

/-- `x[r] <- v`: a write of `x0` is discarded (R52). -/
def State.setX (s : State) (r : Reg) (v : Word) : State :=
  if h : r.toNat = 0 then s
  else { s with x := s.x.set (r.toNat - 1) v (by have := r.isLt; omega) }

/-- The register a three-bit field names: `x8` to `x15` (R262). -/
def CReg.reg (r : CReg) : Reg := 0b01#2 ++ r

/-! ## Immediates -/

/-- `sext_64` (R15). -/
def sext {n : Nat} (v : BitVec n) : Word := v.signExtend 64

/-- `zext_64` (R15). -/
def zext {n : Nat} (v : BitVec n) : Word := v.setWidth 64

/-- The U-immediate (R267). -/
def immU (imm : BitVec 20) : Word := sext (imm ++ 0#12)

/-- The value `nzimm` of `c.lui`, from its bits 17:12 (R270). -/
def immCLui (nzimm : BitVec 6) : Word := sext (nzimm ++ 0#12)

/-! ## Bit fields -/

/-- Set bit `i` to `b`. -/
def putBit (v : Word) (i : Nat) (b : Bool) : Word :=
  if b then v ||| (1#64 <<< i) else v &&& ~~~(1#64 <<< i)

/-- Replace the bits under `mask` by those of `new`. -/
def merge (old new mask : Word) : Word := (old &&& ~~~mask) ||| (new &&& mask)

/-- One bit at position `i` when the condition holds. -/
def bitIf (c : Bool) (i : Nat) : Word := if c then 1#64 <<< i else 0#64

/-- `mask` when the condition holds. -/
def maskIf (c : Bool) (mask : Word) : Word := if c then mask else 0#64

end Sys2Proof.Machine
end

