-- ==== Sys2Proof/Machine/Flags.lean ====
section
/-! DEFINITION. The hart has no flags (10_state R63): comparisons write a general register or decide a branch.
Here stand the comparisons, and the value a set-less-than writes. -/

namespace Sys2Proof.Machine

/-- `a <s b`. -/
def ltS (a b : Word) : Bool := a.slt b

/-- `a <u b`. -/
def ltU (a b : Word) : Bool := a.ult b

/-- 1 or 0, as `slt` and its kin write it (R354, R355, R365, R366). -/
def boolWord (b : Bool) : Word := if b then 1#64 else 0#64

/-- Branch conditions (R433 to R438). -/
inductive Cond where
  | eq | ne | lt | ge | ltu | geu
  deriving DecidableEq, Repr

def Cond.holds : Cond → Word → Word → Bool
  | .eq, a, b => a == b
  | .ne, a, b => a != b
  | .lt, a, b => ltS a b
  | .ge, a, b => !ltS a b
  | .ltu, a, b => ltU a b
  | .geu, a, b => !ltU a b

end Sys2Proof.Machine
end

