-- ==== Sys2Proof/Machine/Csrs.lean ====
section
/-! DEFINITION. The CSR file: which CSRs exist, how they read, how they are written and legalised, and the access
checks (10_state R64 to R147, 45_csr_access, 61_debug_triggers R752 to R758). -/

namespace Sys2Proof.Machine

/-! ## The CSRs -/

/-- The CSRs of R69. An indexed CSR counts from its first register: `mhpmevent 0` is `mhpmevent3`. -/
inductive Csr where
  | sstatus | sie | stvec | scounteren | sscratch | sepc | scause | stval | sip | satp
  | mstatus | misa | medeleg | mideleg | mie | mtvec | mcounteren | mcountinhibit
  | mhpmevent (i : Fin 29)
  | mscratch | mepc | mcause | mtval | mip
  | pmpcfg0 | pmpcfg2
  | pmpaddr (i : Fin 16)
  | tselect | tdata1 | tdata2 | tdata3 | tinfo
  | dcsr | dpc | dscratch0 | dscratch1
  | mscause | mcycle | minstret
  | mhpmcounter (i : Fin 29)
  | mdeau | meivt | cycle | time | instret
  | hpmcounter (i : Fin 29)
  | mvendorid | marchid | mimpid | mhartid | mdseac | meihap
  deriving DecidableEq, Repr

/-- The number of a CSR (R69). -/
def Csr.num : Csr → CsrNum
  | .sstatus => 0x100#12
  | .sie => 0x104#12
  | .stvec => 0x105#12
  | .scounteren => 0x106#12
  | .sscratch => 0x140#12
  | .sepc => 0x141#12
  | .scause => 0x142#12
  | .stval => 0x143#12
  | .sip => 0x144#12
  | .satp => 0x180#12
  | .mstatus => 0x300#12
  | .misa => 0x301#12
  | .medeleg => 0x302#12
  | .mideleg => 0x303#12
  | .mie => 0x304#12
  | .mtvec => 0x305#12
  | .mcounteren => 0x306#12
  | .mcountinhibit => 0x320#12
  | .mhpmevent i => BitVec.ofNat 12 (0x323 + i.val)
  | .mscratch => 0x340#12
  | .mepc => 0x341#12
  | .mcause => 0x342#12
  | .mtval => 0x343#12
  | .mip => 0x344#12
  | .pmpcfg0 => 0x3A0#12
  | .pmpcfg2 => 0x3A2#12
  | .pmpaddr i => BitVec.ofNat 12 (0x3B0 + i.val)
  | .tselect => 0x7A0#12
  | .tdata1 => 0x7A1#12
  | .tdata2 => 0x7A2#12
  | .tdata3 => 0x7A3#12
  | .tinfo => 0x7A4#12
  | .dcsr => 0x7B0#12
  | .dpc => 0x7B1#12
  | .dscratch0 => 0x7B2#12
  | .dscratch1 => 0x7B3#12
  | .mscause => 0x7FF#12
  | .mcycle => 0xB00#12
  | .minstret => 0xB02#12
  | .mhpmcounter i => BitVec.ofNat 12 (0xB03 + i.val)
  | .mdeau => 0xBC0#12
  | .meivt => 0xBC8#12
  | .cycle => 0xC00#12
  | .time => 0xC01#12
  | .instret => 0xC02#12
  | .hpmcounter i => BitVec.ofNat 12 (0xC03 + i.val)
  | .mvendorid => 0xF11#12
  | .marchid => 0xF12#12
  | .mimpid => 0xF13#12
  | .mhartid => 0xF14#12
  | .mdseac => 0xFC0#12
  | .meihap => 0xFC8#12

/-- The CSRs below 0x300. -/
def Csr.ofNumS (n : Nat) : Option Csr :=
  if n = 0x100 then some .sstatus
  else if n = 0x104 then some .sie
  else if n = 0x105 then some .stvec
  else if n = 0x106 then some .scounteren
  else if n = 0x140 then some .sscratch
  else if n = 0x141 then some .sepc
  else if n = 0x142 then some .scause
  else if n = 0x143 then some .stval
  else if n = 0x144 then some .sip
  else if n = 0x180 then some .satp
  else none

/-- The CSRs from 0x300 to 0x3FF. -/
def Csr.ofNumM (n : Nat) : Option Csr :=
  if n = 0x300 then some .mstatus
  else if n = 0x301 then some .misa
  else if n = 0x302 then some .medeleg
  else if n = 0x303 then some .mideleg
  else if n = 0x304 then some .mie
  else if n = 0x305 then some .mtvec
  else if n = 0x306 then some .mcounteren
  else if n = 0x320 then some .mcountinhibit
  else if h : 0x323 ≤ n ∧ n ≤ 0x33F then some (.mhpmevent ⟨n - 0x323, by omega⟩)
  else if n = 0x340 then some .mscratch
  else if n = 0x341 then some .mepc
  else if n = 0x342 then some .mcause
  else if n = 0x343 then some .mtval
  else if n = 0x344 then some .mip
  else if n = 0x3A0 then some .pmpcfg0
  else if n = 0x3A2 then some .pmpcfg2
  else if h : 0x3B0 ≤ n ∧ n ≤ 0x3BF then some (.pmpaddr ⟨n - 0x3B0, by omega⟩)
  else none

/-- The CSRs from 0x400 up. -/
def Csr.ofNumHigh (n : Nat) : Option Csr :=
  if n = 0x7A0 then some .tselect
  else if n = 0x7A1 then some .tdata1
  else if n = 0x7A2 then some .tdata2
  else if n = 0x7A3 then some .tdata3
  else if n = 0x7A4 then some .tinfo
  else if n = 0x7B0 then some .dcsr
  else if n = 0x7B1 then some .dpc
  else if n = 0x7B2 then some .dscratch0
  else if n = 0x7B3 then some .dscratch1
  else if n = 0x7FF then some .mscause
  else if n = 0xB00 then some .mcycle
  else if n = 0xB02 then some .minstret
  else if h : 0xB03 ≤ n ∧ n ≤ 0xB1F then some (.mhpmcounter ⟨n - 0xB03, by omega⟩)
  else if n = 0xBC0 then some .mdeau
  else if n = 0xBC8 then some .meivt
  else if n = 0xC00 then some .cycle
  else if n = 0xC01 then some .time
  else if n = 0xC02 then some .instret
  else if h : 0xC03 ≤ n ∧ n ≤ 0xC1F then some (.hpmcounter ⟨n - 0xC03, by omega⟩)
  else if n = 0xF11 then some .mvendorid
  else if n = 0xF12 then some .marchid
  else if n = 0xF13 then some .mimpid
  else if n = 0xF14 then some .mhartid
  else if n = 0xFC0 then some .mdseac
  else if n = 0xFC8 then some .meihap
  else none

/-- The CSR a number names in the table of R69, whatever exists in the configuration. -/
def Csr.ofNum (n : CsrNum) : Option Csr :=
  if n.toNat < 0x300 then Csr.ofNumS n.toNat
  else if n.toNat < 0x400 then Csr.ofNumM n.toNat
  else Csr.ofNumHigh n.toNat

/-- The condition of R69's column "exists when". -/
def Csr.present (c : Config) : Csr → Bool
  | .sstatus | .sie | .stvec | .scounteren | .sscratch | .sepc | .scause | .stval | .sip | .satp => c.extS
  | .medeleg | .mideleg => c.extS
  | .mcounteren => c.extU
  | .pmpcfg0 => decide (0 < c.pmpEntries)
  | .pmpcfg2 => decide (8 < c.pmpEntries)
  | .pmpaddr i => decide (i.val < c.pmpEntries)
  | .tselect | .tdata1 | .tdata2 | .tdata3 | .tinfo => decide (0 < c.numTriggers)
  | .time => c.timeCsr
  | _ => true

/-- The implemented CSR a number names (R64, R69). -/
def State.csrOf (s : State) (n : CsrNum) : Option Csr :=
  match Csr.ofNum n with
  | some r => if r.present s.cfg then some r else none
  | none => none

/-! ## Fields of `mstatus` (R70) -/

def mstatusSIE : Nat := 1
def mstatusMIE : Nat := 3
def mstatusSPIE : Nat := 5
def mstatusMPIE : Nat := 7
def mstatusSPP : Nat := 8
def mstatusMPRV : Nat := 17
def mstatusSUM : Nat := 18
def mstatusMXR : Nat := 19
def mstatusTVM : Nat := 20
def mstatusTW : Nat := 21
def mstatusTSR : Nat := 22

/-- A one-bit field of `mstatus`. -/
def State.status (s : State) (i : Nat) : Bool := s.csr.mstatus.getLsbD i

/-- `mstatus.MPP` (R71). -/
def mppOf (v : Word) : BitVec 2 := v.extractLsb' 11 2

/-- `mstatus` with another MPP. -/
def putMpp (v : Word) (p : BitVec 2) : Word := merge v (zext p <<< 11) 0x1800#64

/-- Whether a two-bit code is a mode the configuration has (R60, R71). -/
def Config.modeLegal (c : Config) (p : BitVec 2) : Bool :=
  match Priv.ofCode p with
  | some q => c.privLegal q
  | none => false

/-! ## Write masks (R65) and poke masks (R522) -/

/-- `mstatus` (R70). -/
def Config.mstatusMask (c : Config) : Word :=
  0x88#64 ||| maskIf c.extU 0x221800#64 ||| maskIf c.extS 0x5C0122#64

/-- The counters that exist, at bits 3 and up (R81). -/
def Config.hpmMask (c : Config) : Word := (BitVec.ofNat 64 (2 ^ c.numHpm - 1)) <<< 3

/-- The implemented configuration bytes of `pmpcfg0` (`first` = 0) or `pmpcfg2` (`first` = 8) (R90). -/
def Config.pmpcfgMask (c : Config) (first : Nat) : Word :=
  leValue ((List.range 8).map fun i => if first + i < c.pmpEntries then 0x9F#8 else 0#8)

/-- `dcsr` (R140). -/
def Config.dcsrMask (c : Config) : Word := 0x8E17#64 ||| maskIf c.extS 0x2000#64 ||| maskIf c.extU 0x1000#64

def allOnes : Word := 0xFFFFFFFFFFFFFFFF#64

/-- The write mask of a CSR. A view's mask is over the CSR it views. -/
def State.writeMask (s : State) : Csr → Word
  | .sstatus => 0xC0122#64
  | .sie => s.csr.mideleg &&& 0x222#64
  | .stvec => 0xFFFFFFFFFFFFFFFD#64
  | .scounteren => 0xFFFFFFFF#64
  | .sscratch => allOnes
  | .sepc => s.cfg.epcMask
  | .scause => allOnes
  | .stval => allOnes
  | .sip => s.csr.mideleg &&& 0x2#64
  | .satp => allOnes
  | .mstatus => s.cfg.mstatusMask
  | .misa => 0#64
  | .medeleg => 0xB3FF#64
  | .mideleg => 0x222#64
  | .mie => if s.cfg.extS then 0xAAA#64 else 0x888#64
  | .mtvec => 0xFFFFFFFFFFFFFFFD#64
  | .mcounteren => 0xFFFFFFFF#64
  | .mcountinhibit => 0x5#64 ||| s.cfg.hpmMask
  | .mhpmevent i => maskIf (decide (i.val < s.cfg.numHpm)) allOnes
  | .mscratch => allOnes
  | .mepc => s.cfg.epcMask
  | .mcause => allOnes
  | .mtval => allOnes
  | .mip => if s.cfg.extS then 0x222#64 else 0#64
  | .pmpcfg0 => s.cfg.pmpcfgMask 0
  | .pmpcfg2 => s.cfg.pmpcfgMask 8
  | .pmpaddr _ => 0x003FFFFFFFFFFFFF#64
  | .tselect => allOnes
  | .tdata1 => allOnes
  | .tdata2 => allOnes
  | .tdata3 => 0#64
  | .tinfo => 0#64
  | .dcsr => s.cfg.dcsrMask
  | .dpc => s.cfg.epcMask
  | .dscratch0 => allOnes
  | .dscratch1 => allOnes
  | .mscause => 0xF#64
  | .mcycle => allOnes
  | .minstret => allOnes
  | .mhpmcounter i => maskIf (decide (i.val < s.cfg.numHpm)) allOnes
  | .mdeau => 0#64
  | .meivt => 0xFFFFFFFFFFFFFC00#64
  | .cycle | .time | .instret | .hpmcounter _ => 0#64
  | .mvendorid | .marchid | .mimpid | .mhartid => 0#64
  | .mdseac => 0#64
  | .meihap => 0#64

/-- The poke mask of a CSR: the write mask but for the rows of R522. -/
def State.pokeMask (s : State) : Csr → Word
  | .mip => if s.cfg.extS then 0xAAA#64 else 0x888#64
  | .dcsr => s.cfg.dcsrMask ||| 0x1C0#64
  | .mdseac => allOnes
  | .meihap => 0x3FC#64
  | r => s.writeMask r

/-- The mask a write by the host or by an instruction uses. -/
def State.maskFor (s : State) (byHost : Bool) (r : Csr) : Word :=
  if byHost then s.pokeMask r else s.writeMask r

/-! ## Reading (R68, R502) -/

/-- `misa` (R75). -/
def Config.misa (c : Config) : Word :=
  0x8000000000000100#64 ||| bitIf c.extM 12 ||| bitIf c.extC 2 ||| bitIf c.extS 18 ||| bitIf c.extU 20

/-- The trigger slot `tselect` names. -/
def State.selectedSlot (s : State) : Option TrigSlot := s.trig[s.csr.tselect.toNat]?

/-- `csr_read` of an implemented CSR. `tdata1` and `tdata2` read 0 where `tselect` names no slot, as one shared by a hart
with more of them can (DESIGN CHOICE, log 19). -/
def State.csrRead (s : State) : Csr → Word
  | .sstatus => s.csr.mstatus &&& 0x80000003000DE122#64
  | .sie => s.csr.mie &&& s.csr.mideleg
  | .stvec => s.csr.stvec
  | .scounteren => s.csr.scounteren
  | .sscratch => s.csr.sscratch
  | .sepc => s.csr.sepc
  | .scause => s.csr.scause
  | .stval => s.csr.stval
  | .sip => s.csr.mip &&& s.csr.mideleg
  | .satp => s.csr.satp
  | .mstatus => s.csr.mstatus
  | .misa => s.cfg.misa
  | .medeleg => s.csr.medeleg
  | .mideleg => s.csr.mideleg
  | .mie => s.csr.mie
  | .mtvec => s.csr.mtvec
  | .mcounteren => s.csr.mcounteren
  | .mcountinhibit => s.csr.mcountinhibit
  | .mhpmevent i => s.csr.mhpmevent[i.val]
  | .mscratch => s.csr.mscratch
  | .mepc => s.csr.mepc
  | .mcause => s.csr.mcause
  | .mtval => s.csr.mtval
  | .mip => s.csr.mip
  | .pmpcfg0 => s.csr.pmpcfg0
  | .pmpcfg2 => s.csr.pmpcfg2
  | .pmpaddr i => s.csr.pmpaddr[i.val]
  | .tselect => s.csr.tselect
  | .tdata1 => match s.selectedSlot with
    | some t => t.tdata1
    | none => 0#64
  | .tdata2 => match s.selectedSlot with
    | some t => t.tdata2
    | none => 0#64
  | .tdata3 => 0#64
  | .tinfo => 0xD#64
  | .dcsr => s.csr.dcsr ||| bitIf s.nmiPending 3
  | .dpc => s.csr.dpc
  | .dscratch0 => s.csr.dscratch0
  | .dscratch1 => s.csr.dscratch1
  | .mscause => s.csr.mscause
  | .mcycle => s.csr.mcycle
  | .minstret => s.csr.minstret
  | .mhpmcounter i => s.csr.mhpmcounter[i.val]
  | .mdeau => 0#64
  | .meivt => s.csr.meivt
  | .cycle => s.csr.mcycle
  | .time => s.clint.mtime
  | .instret => s.csr.minstret
  | .hpmcounter i => s.csr.mhpmcounter[i.val]
  | .mvendorid => s.cfg.mvendorid
  | .marchid => s.cfg.marchid
  | .mimpid => s.cfg.mimpid
  | .mhartid => s.cfg.hartId
  | .mdseac => s.csr.mdseac
  | .meihap => (s.csr.meivt &&& 0xFFFFFFFFFFFFFC00#64) ||| (zext s.csr.claimid <<< 2)

/-! ## Trigger registers (61_debug_triggers) -/

/-- `tdata1.type` (R752). -/
def trigType (t : Word) : BitVec 4 := t.extractLsb' 60 4

/-- `tdata1.dmode` (R752). -/
def trigDmode (t : Word) : Bool := t.getLsbD 59

/-- The action a write leaves: an illegal value keeps the current one, and 1 needs `dmode` (R754). -/
def legalAction (v cur : Nat) (dmode : Bool) : Nat :=
  if v = 0 then 0
  else if v = 1 ∧ dmode then 1
  else if cur = 1 ∧ dmode then 1 else 0

/-- `chainRule` for an instruction, and for the pokes it lets through (R758). -/
def chainRule (c : Config) (slot : Nat) (want : Bool) : Bool :=
  want && !(decide (slot + 1 = c.numTriggers)) && !(c.triggerEvenOdd && decide (slot % 2 = 1))

/-- Whether `chainRule` fails a poke (R758). -/
def chainPokeFails (c : Config) (slot : Nat) (want : Bool) : Bool :=
  want && !(decide (slot + 1 = c.numTriggers)) && c.triggerEvenOdd && decide (slot % 2 = 1)

/-- `legalise2` (R753, R754); `cur` is the slot's `tdata1` before the write. -/
def legaliseMcontrol (c : Config) (slot : Nat) (cur v : Word) (dmode : Bool) : Word :=
  let keep := trigType cur == 2#4
  let curAction := if keep then (cur.extractLsb' 12 4).toNat else 0
  let curMatch : BitVec 4 := if keep then cur.extractLsb' 7 4 else 0#4
  let action := legalAction (v.extractLsb' 12 4).toNat curAction dmode
  let mtch := if (v.extractLsb' 7 4).toNat ≤ 5 then v.extractLsb' 7 4 else curMatch
  0x27E0000000000000#64 ||| bitIf dmode 59
    ||| (v &&& 0x1C0000#64)                       -- hit, select, timing
    ||| (BitVec.ofNat 64 action <<< 12)
    ||| bitIf (chainRule c slot (v.getLsbD 11)) 11
    ||| (zext mtch <<< 7)
    ||| (v &&& 0x47#64)                           -- m, execute, store, load
    ||| bitIf (c.extS && v.getLsbD 4) 4 ||| bitIf (c.extU && v.getLsbD 3) 3

/-- The `icount` layout (R755). -/
def legaliseIcount (c : Config) (cur v : Word) (dmode : Bool) : Word :=
  let curAction := if trigType cur == 3#4 then (cur.extractLsb' 0 6).toNat else 0
  let action := legalAction (v.extractLsb' 0 6).toNat curAction dmode
  0x3000000000000000#64 ||| bitIf dmode 59
    ||| (v &&& 0x1FFFE00#64)                      -- hit, count, m
    ||| bitIf (c.extS && v.getLsbD 7) 7 ||| bitIf (c.extU && v.getLsbD 6) 6
    ||| BitVec.ofNat 64 action

/-- What a write of `v` leaves in the `tdata1` of a slot, `dmode` protection aside (R752 to R757). -/
def legaliseTdata1 (c : Config) (slot : Nat) (cur v : Word) (byHost : Bool) : Word :=
  let dmode := byHost && v.getLsbD 59
  if trigType v = 0#4 then 0#64
  else if trigType v = 2#4 then legaliseMcontrol c slot cur v dmode
  else if trigType v = 3#4 then legaliseIcount c cur v dmode
  else cur

/-- Update one slot, keeping the others. -/
def State.updateSlot (s : State) (i : Nat) (f : TrigSlot → TrigSlot) : State :=
  { s with trig := s.trig.modify i f }

/-- Whether a write of the selected slot is ignored: its `dmode` is 1 and the writer is an instruction (R757), which is
never in debug mode, not even as the what-if of a halted hart (DEDUCED, log 22). A `tselect` that names no slot, as one
shared by a hart with more of them can, leaves nothing to write (DESIGN CHOICE, log 19). -/
def State.slotProtected (s : State) (byHost : Bool) : Bool :=
  match s.selectedSlot with
  | some t => trigDmode t.tdata1 && !byHost
  | none => true

/-- Write `tdata1` of the selected slot (R754, R757). An instruction never stores `dmode` 1, not even in the what-if of a
halted hart (DEDUCED, log 22). -/
def State.writeTdata1 (s : State) (byHost : Bool) (v : Word) : State :=
  if s.slotProtected byHost then s
  else s.updateSlot s.csr.tselect.toNat fun t =>
    { t with tdata1 := legaliseTdata1 s.cfg s.csr.tselect.toNat t.tdata1 v byHost }

/-- Write `tdata2` of the selected slot (R137, R757). -/
def State.writeTdata2 (s : State) (byHost : Bool) (v : Word) : State :=
  if s.slotProtected byHost then s
  else s.updateSlot s.csr.tselect.toNat fun t => { t with tdata2 := v }

/-! ## PMP registers (R90 to R92) -/

/-- The configuration byte of a PMP entry. -/
def CsrFile.pmpCfgByte (f : CsrFile) (i : Nat) : Byte :=
  if i < 8 then f.pmpcfg0.extractLsb' (8 * i) 8 else f.pmpcfg2.extractLsb' (8 * (i - 8)) 8

/-- L, the lock bit. -/
def pmpLocked (b : Byte) : Bool := b.getLsbD 7

/-- A, the address-matching mode. -/
def pmpA (b : Byte) : BitVec 2 := b.extractLsb' 3 2

/-- One byte of a configuration write: a locked byte stays, and R = 0, W = 1 is stored with W = 0 (R91). -/
def legalPmpByte (old new : Byte) : Byte :=
  if pmpLocked old then old
  else
    let b := new &&& 0x9F#8
    if b.getLsbD 1 && !b.getLsbD 0 then b &&& 0xFD#8 else b

/-- A write of `pmpcfg0` (`first` = 0) or `pmpcfg2` (`first` = 8): bytes of entries that do not exist are 0 (R90). -/
def legalPmpcfg (c : Config) (first : Nat) (old new : Word) : Word :=
  leValue ((List.range 8).map fun i =>
    if first + i < c.pmpEntries then legalPmpByte (old.extractLsb' (8 * i) 8) (new.extractLsb' (8 * i) 8) else 0#8)

/-- A write of `pmpaddrI` is ignored when entry I is locked, or entry I+1 exists, is locked and has A = TOR (R92). -/
def State.pmpaddrLocked (s : State) (i : Nat) : Bool :=
  pmpLocked (s.csr.pmpCfgByte i)
    || (decide (i + 1 < s.cfg.pmpEntries) && pmpLocked (s.csr.pmpCfgByte (i + 1))
        && pmpA (s.csr.pmpCfgByte (i + 1)) == 1#2)

/-! ## Writing (R65, R510, R511, R520) -/

/-- `mstatus` legalisation: an illegal MPP leaves MPP unchanged (R71). -/
def legalMstatus (c : Config) (old new : Word) : Word :=
  if c.modeLegal (mppOf new) then new else putMpp new (mppOf old)

/-- `satp` legalisation (R130). -/
def legalSatp (c : Config) (old new : Word) : Word :=
  if c.satpModes.contains (new.extractLsb' 60 4) then
    new &&& (0xF0000FFFFFFFFFFF#64 ||| (BitVec.ofNat 64 (2 ^ c.asidlen - 1) <<< 44))
  else old

/-- `dcsr` legalisation: an illegal `prv` leaves `prv` unchanged (R140). -/
def legalDcsr (c : Config) (old new : Word) : Word :=
  if c.modeLegal (new.extractLsb' 0 2) then new else merge new old 3#64

/-- Store a value in an implemented CSR, by an instruction or by the host: the mask, the legalisation and the side
effects of R511, without the record a CSR instruction keeps of it. -/
def State.csrStore (s : State) (byHost : Bool) (r : Csr) (v : Word) : State :=
  let m := s.maskFor byHost r
  match r with
  | .sstatus => { s with csr := { s.csr with mstatus := merge s.csr.mstatus v m } }
  | .sie => { s with csr := { s.csr with mie := merge s.csr.mie v m } }
  | .stvec => { s with csr := { s.csr with stvec := merge s.csr.stvec v m } }
  | .scounteren => { s with csr := { s.csr with scounteren := merge s.csr.scounteren v m } }
  | .sscratch => { s with csr := { s.csr with sscratch := merge s.csr.sscratch v m } }
  | .sepc => { s with csr := { s.csr with sepc := merge s.csr.sepc v m } }
  | .scause => { s with csr := { s.csr with scause := merge s.csr.scause v m } }
  | .stval => { s with csr := { s.csr with stval := merge s.csr.stval v m } }
  | .sip => { s with csr := { s.csr with mip := merge s.csr.mip v m } }
  | .satp => { s with csr := { s.csr with satp := legalSatp s.cfg s.csr.satp (merge s.csr.satp v m) } }
  | .mstatus => { s with csr := { s.csr with mstatus := legalMstatus s.cfg s.csr.mstatus (merge s.csr.mstatus v m) } }
  | .misa => s
  | .medeleg => { s with csr := { s.csr with medeleg := merge s.csr.medeleg v m } }
  | .mideleg => { s with csr := { s.csr with mideleg := merge s.csr.mideleg v m } }
  | .mie => { s with csr := { s.csr with mie := merge s.csr.mie v m } }
  | .mtvec => { s with csr := { s.csr with mtvec := merge s.csr.mtvec v m } }
  | .mcounteren => { s with csr := { s.csr with mcounteren := merge s.csr.mcounteren v m } }
  | .mcountinhibit => { s with csr := { s.csr with mcountinhibit := merge s.csr.mcountinhibit v m } }
  | .mhpmevent i =>
    { s with csr := { s.csr with mhpmevent := s.csr.mhpmevent.set i.val (merge s.csr.mhpmevent[i.val] v m) } }
  | .mscratch => { s with csr := { s.csr with mscratch := merge s.csr.mscratch v m } }
  | .mepc => { s with csr := { s.csr with mepc := merge s.csr.mepc v m } }
  | .mcause => { s with csr := { s.csr with mcause := merge s.csr.mcause v m } }
  | .mtval => { s with csr := { s.csr with mtval := merge s.csr.mtval v m } }
  | .mip => { s with csr := { s.csr with mip := merge s.csr.mip v m } }
  | .pmpcfg0 => { s with csr := { s.csr with pmpcfg0 := legalPmpcfg s.cfg 0 s.csr.pmpcfg0 (merge s.csr.pmpcfg0 v m) } }
  | .pmpcfg2 => { s with csr := { s.csr with pmpcfg2 := legalPmpcfg s.cfg 8 s.csr.pmpcfg2 (merge s.csr.pmpcfg2 v m) } }
  | .pmpaddr i =>
    if s.pmpaddrLocked i.val then s
    else { s with csr := { s.csr with pmpaddr := s.csr.pmpaddr.set i.val (merge s.csr.pmpaddr[i.val] v m) } }
  | .tselect => if v.toNat < s.cfg.numTriggers then { s with csr := { s.csr with tselect := v } } else s
  | .tdata1 => s.writeTdata1 byHost v
  | .tdata2 => s.writeTdata2 byHost v
  | .tdata3 => s
  | .tinfo => s
  | .dcsr => { s with csr := { s.csr with dcsr := legalDcsr s.cfg s.csr.dcsr (merge s.csr.dcsr v m) } }
  | .dpc => { s with csr := { s.csr with dpc := merge s.csr.dpc v m } }
  | .dscratch0 => { s with csr := { s.csr with dscratch0 := merge s.csr.dscratch0 v m } }
  | .dscratch1 => { s with csr := { s.csr with dscratch1 := merge s.csr.dscratch1 v m } }
  | .mscause => { s with csr := { s.csr with mscause := merge s.csr.mscause v m } }
  | .mcycle => { s with csr := { s.csr with mcycle := merge s.csr.mcycle v m } }
  | .minstret => { s with csr := { s.csr with minstret := merge s.csr.minstret v m } }
  | .mhpmcounter i =>
    { s with csr := { s.csr with mhpmcounter := s.csr.mhpmcounter.set i.val (merge s.csr.mhpmcounter[i.val] v m) } }
  | .mdeau => { s with mdseacLocked := false }
  | .meivt => { s with csr := { s.csr with meivt := merge s.csr.meivt v m } }
  | .cycle | .time | .instret | .hpmcounter _ => s
  | .mvendorid | .marchid | .mimpid | .mhartid => s
  | .mdseac => { s with csr := { s.csr with mdseac := merge s.csr.mdseac v m } }
  | .meihap => { s with csr := { s.csr with claimid := (merge (zext s.csr.claimid <<< 2) v m).extractLsb' 2 8 } }

/-- The CSR a view shows, which a write of the view writes (R510). -/
def Csr.viewed : Csr → Option Csr
  | .sstatus => some .mstatus
  | .sie => some .mie
  | .sip => some .mip
  | _ => none

/-- The old values a write of a CSR records (R340, R510). -/
def State.oldValues (s : State) (r : Csr) : List (CsrNum × Word) :=
  match r.viewed with
  | some u => [(r.num, s.csrRead r), (u.num, s.csrRead u)]
  | none => [(r.num, s.csrRead r)]

/-- Whether an instruction's write of `r` configures the selected trigger: a `tdata1` write that is performed, the
slot not protected (R757) and the type supported (R752); log 9. -/
def State.writesSlot (s : State) (r : Csr) (v : Word) : Bool :=
  r == .tdata1 && !s.slotProtected false && (trigType v == 0#4 || trigType v == 2#4 || trigType v == 3#4)

/-- `csr_write` by an instruction: the store, and the record of what was written (R510). -/
def State.csrWrite (s : State) (r : Csr) (v : Word) : State :=
  let t := s.csrStore false r v
  { t with ctx := { t.ctx with
      csrWritten := r.num :: t.ctx.csrWritten
      csrOld := s.oldValues r ++ t.ctx.csrOld
      slotWritten := if s.writesSlot r v then some s.csr.tselect.toNat else t.ctx.slotWritten } }

/-! ## Access checks (R500) -/

/-- The counters are gated below M by `mcounteren` and, in U, by `scounteren`. -/
def State.counterBlocked (s : State) (n : CsrNum) : Bool :=
  decide (0xC00 ≤ n.toNat) && decide (n.toNat ≤ 0xC1F)
    && ((s.priv != .m && s.cfg.extU && !s.csr.mcounteren.getLsbD (n.toNat - 0xC00))
      || (s.priv == .u && s.cfg.extS && !s.csr.scounteren.getLsbD (n.toNat - 0xC00)))

/-- The CSR an instruction may access by the number `n`, `none` when the access is illegal. The numbers of
the debug CSRs are refused to every instruction (R500's text, R786; D8), also in the what-if of a halted hart. -/
def State.csrAccess (s : State) (n : CsrNum) (isWrite : Bool) : Option Csr :=
  match s.csrOf n with
  | none => none
  | some r =>
    if decide (0x7B0 ≤ n.toNat) && decide (n.toNat ≤ 0x7BF) then none
    else if s.priv.code.toNat < (n.extractLsb' 8 2).toNat then none
    else if isWrite && n.extractLsb' 10 2 == 3#2 then none
    else if n == 0x180#12 && s.priv == .s && s.status mstatusTVM then none
    else if s.counterBlocked n then none
    else some r

end Sys2Proof.Machine
end

