-- ==== Sys2Proof/Machine/Access.lean ====
section
/-! DEFINITION. Memory access: effective privilege, translation, PMP, the CLINT, physical bytes, and the access
primitives `Fetch`, `MemRead` and `MemWrite` (20_memory, 60_exceptions R710 to R713). -/

namespace Sys2Proof.Machine

/-! ## Effective privilege, translation, protection -/

/-- The effective privilege of an access (R207, R73). -/
def State.effPriv (s : State) (acc : Acc) : Priv :=
  match acc with
  | .fetch => s.priv
  | .load | .store =>
    if s.priv = .m ∧ s.status mstatusMPRV then
      match Priv.ofCode (mppOf s.csr.mstatus) with
      | some p => p
      | none => s.priv
    else s.priv

/-- The translation contract (R203): the identity without S, at M, or with `satp.MODE` 0; otherwise the collaborator's
free answer, `none` a page fault (log 5). -/
def State.translate (s : State) (acc : Acc) (p : Priv) (v : Word) : Option Word :=
  if !s.cfg.extS || p == .m || s.csr.satp.extractLsb' 60 4 == 0#4 then some v
  else Config.translateExternal
    { vaddr := v, acc := acc, priv := p, satp := s.csr.satp, sum := s.status mstatusSUM, mxr := s.status mstatusMXR,
      mem := s.mem, flushes := s.flushes, tick := s.tick }

/-- The number of trailing one bits, at most `fuel`. -/
def trailingOnes : Nat → Word → Nat
  | 0, _ => 0
  | fuel + 1, v => if v.getLsbD 0 then trailingOnes fuel (v >>> 1) + 1 else 0

/-- The byte range `[base, top)` of a PMP entry under the privileged architecture 1.11 (PRESUMED, log 6). -/
def State.pmpRange (s : State) (i : Nat) : Option (Nat × Nat) :=
  let addr (j : Nat) : Nat := (s.csr.pmpaddr[j]?.getD 0#64).toNat
  let a := pmpA (s.csr.pmpCfgByte i)
  if a = 0#2 then none
  else if a = 1#2 then some (if i = 0 then 0 else 4 * addr (i - 1), 4 * addr i)
  else if a = 2#2 then some (4 * addr i, 4 * addr i + 4)
  else
    let k := trailingOnes 54 (BitVec.ofNat 64 (addr i))
    let size := 2 ^ (k + 3)
    some (4 * addr i / size * size, 4 * addr i / size * size + size)

/-- R, W or X of a configuration byte, by access type. -/
def pmpPermits (b : Byte) : Acc → Bool
  | .load => b.getLsbD 0
  | .store => b.getLsbD 1
  | .fetch => b.getLsbD 2

/-- The matching of the privileged architecture 1.11 from entry `i` on: the lowest-numbered entry that matches any
byte decides, and fails the access unless it matches every byte; a TOR entry whose base is not below its top matches
no byte (PRESUMED, log 6). -/
def State.pmpScan (s : State) (acc : Acc) (p : Priv) (lo hi : Nat) : Nat → Nat → Bool
  | 0, _ => p == .m || decide (s.cfg.pmpEntries = 0)
  | fuel + 1, i =>
    match s.pmpRange i with
    | none => State.pmpScan s acc p lo hi fuel (i + 1)
    | some (base, top) =>
      if hi ≤ base ∨ top ≤ lo ∨ top ≤ base then State.pmpScan s acc p lo hi fuel (i + 1)
      else if base ≤ lo ∧ hi ≤ top then
        (p == .m && !pmpLocked (s.csr.pmpCfgByte i)) || pmpPermits (s.csr.pmpCfgByte i) acc
      else false

/-- The PMP contract (R204): whether the access is allowed. -/
def State.pmpAllows (s : State) (acc : Acc) (p : Priv) (paddr : Word) (n : Nat) : Bool :=
  match s.cfg.pmpUnit with
  | .privileged111 => s.pmpScan acc p paddr.toNat (paddr.toNat + n) s.cfg.pmpEntries 0
  | .external => Config.pmpExternal
      { paddr := paddr, size := n, acc := acc, priv := p, pmpcfg0 := s.csr.pmpcfg0, pmpcfg2 := s.csr.pmpcfg2,
        pmpaddr := s.csr.pmpaddr.toList }

/-! ## The CLINT (R710, R713) -/

/-- The offset of a physical address in the CLINT region. -/
def Config.clintOffset (c : Config) (b : Word) : Nat := b.toNat - c.clintBase.toNat

/-- Whether an access of `n` bytes at an offset is one R713 performs. Where NUM_HARTS is so large that R710's rows meet,
an offset from 0x4000 is `mtimecmp`'s and one from 0xBFF8 is `mtime`'s (DESIGN CHOICE, log 21). -/
def Config.clintLegal (c : Config) (off n : Nat) : Bool :=
  if off < 0x4000 then decide (off < 4 * c.numHarts) && decide (n = 4) && decide (off % 4 = 0)
  else if off < 0xBFF8 then
    decide (off < 0x4000 + 8 * c.numHarts)
      && ((decide (n = 4) && decide (off % 4 = 0)) || (decide (n = 8) && decide (off % 8 = 0)))
  else
    decide (off < 0xC000)
      && ((decide (n = 4) && decide (off % 4 = 0)) || (decide (n = 8) && decide (off % 8 = 0)))

/-- The byte of a word at a little-endian position (R208). -/
def byteAt (v : Word) (k : Nat) : Byte := v.extractLsb' (8 * k) 8

/-- A word with the byte at a little-endian position replaced. -/
def putByte (v : Word) (k : Nat) (b : Byte) : Word :=
  (v &&& ~~~(0xFF#64 <<< (8 * k))) ||| (zext b <<< (8 * k))

/-- The byte a CLINT offset reads as (R710); which row an offset of two rows belongs to is log 21. -/
def Clint.readByte (c : Clint) (off : Nat) : Byte :=
  if off < 0x4000 then
    if off % 4 = 0 then (if c.msip[off / 4]?.getD false then 1#8 else 0#8) else 0#8
  else if off < 0xBFF8 then byteAt (c.mtimecmp[(off - 0x4000) / 8]?.getD 0#64) (off % 8)
  else byteAt c.mtime (off % 8)

/-- A store of one byte to a CLINT offset (R710, R711); which row an offset of two rows belongs to is log 21. -/
def Clint.writeByte (c : Clint) (off : Nat) (b : Byte) : Clint :=
  if off < 0x4000 then
    if off % 4 = 0 then { c with msip := c.msip.set (off / 4) (b.getLsbD 0) } else c
  else if off < 0xBFF8 then
    { c with mtimecmp := c.mtimecmp.modify ((off - 0x4000) / 8) fun w => putByte w (off % 8) b }
  else c

/-! ## Physical bytes (R202, R205) -/

/-- The byte at a physical address: a CLINT register's, a device's free value (log 4), or memory's. -/
def State.physByte (s : State) (b : Word) : Byte :=
  if s.cfg.inClint b then s.clint.readByte (s.cfg.clintOffset b)
  else if s.cfg.isMmr b.toNat then Config.deviceByte s.tick b.toNat
  else s.mem.read b.toNat

/-- Write the byte at a physical address. What a device does with it is outside the model (log 4). -/
def State.setPhysByte (s : State) (b : Word) (v : Byte) : State :=
  if s.cfg.inClint b then { s with clint := s.clint.writeByte (s.cfg.clintOffset b) v }
  else if s.cfg.isMmr b.toNat then s
  else { s with mem := s.mem.write b.toNat v }

/-- Write bytes at physical addresses, in order. -/
def State.setPhysBytes (s : State) : List Word → List Byte → State
  | p :: ps, b :: bs => State.setPhysBytes (s.setPhysByte p b) ps bs
  | _, _ => s

/-- Whether the memory collaborator backs one byte for the access (R205); a device may fault it (log 4). -/
def State.byteBacked (s : State) (acc : Acc) (b : Word) : Bool :=
  !s.cfg.inClint b && s.cfg.permitted acc b.toNat
    && !(s.cfg.isMmr b.toNat && Config.deviceFaults s.tick acc b.toNat)

/-- Whether an access to physical bytes succeeds: every byte is backed, or the access is a CLINT access that R713
performs. -/
def State.accessOk (s : State) (acc : Acc) (ps : List Word) : Bool :=
  match ps with
  | [] => true
  | p :: _ =>
    if s.cfg.inClint p then
      acc != .fetch && ps.all s.cfg.inClint && s.cfg.clintLegal (s.cfg.clintOffset p) ps.length
    else ps.all (s.byteBacked acc)

/-- Move on to the next free value after an access that touches a device. -/
def State.touch (s : State) (ps : List Word) : State :=
  if ps.any (fun b => s.cfg.isMmr b.toNat) then { s with tick := s.tick + 1 } else s

/-! ## Page parts (R215) -/

/-- The parts of `[a, a + n - 1]` by 4 KiB page: one, or two. -/
def pageParts (a : Word) (n : Nat) : List (Word × Nat) :=
  let room := 4096 - a.toNat % 4096
  if n ≤ room then [(a, n)] else [(a, room), (a + BitVec.ofNat 64 room, n - room)]

/-- `n` consecutive addresses, modulo 2^64 (R201). -/
def addrRange (a : Word) (n : Nat) : List Word := (List.range n).map fun i => a + BitVec.ofNat 64 i

/-- Translate and protection-check part by part; the physical address of every byte, or the exception. -/
def State.locateParts (s : State) (acc : Acc) (p : Priv) : List (Word × Nat) → Except Exc (List Word)
  | [] => .ok []
  | (v, k) :: t =>
    match s.translate acc p v with
    | none => .error acc.pageFault
    | some q =>
      if s.pmpAllows acc p q k then
        match State.locateParts s acc p t with
        | .ok ps => .ok (addrRange q k ++ ps)
        | .error e => .error e
      else .error acc.accessFault

/-- An access of `n` bytes at `a` is aligned (R211). -/
def aligned (a : Word) (n : Nat) : Bool := a.toNat % n == 0

/-- The checks of `MemRead` and `MemWrite` before the access itself (R212, R215, R216): the physical address of every
byte, or the exception. -/
def State.locate (s : State) (acc : Acc) (a : Word) (n : Nat) : Except Exc (List Word) :=
  if !aligned a n && s.cfg.misalignedData == .trap then .error acc.misaligned
  else
    match s.locateParts acc (s.effPriv acc) (pageParts a n) with
    | .error e => .error e
    | .ok ps =>
      if !aligned a n && ps.any s.cfg.nonIdempotent then .error acc.accessFault
      else if s.accessOk acc ps then .ok ps
      else .error acc.accessFault

/-! ## The access primitives -/

/-- `MemRead(a, n)` (R215): the value, zero-extended, and the state after the access. -/
def State.memRead (s : State) (a : Word) (n : Nat) : Except Exc (Word × State) :=
  match s.locate .load a n with
  | .error e => .error e
  | .ok ps => .ok (leValue (ps.map s.physByte), s.touch ps)

/-- What `MemWrite` leaves for the store queue (R802). -/
structure Written where
  prior : List Byte
  phys : List Word
  deriving DecidableEq, Repr

/-- `MemWrite(a, n, v)` (R216): the prior bytes with their physical addresses, and the state after the access. -/
def State.memWrite (s : State) (a : Word) (n : Nat) (v : Word) : Except Exc (Written × State) :=
  match s.locate .store a n with
  | .error e => .error e
  | .ok ps => .ok ({ prior := ps.map s.physByte, phys := ps }, (s.touch ps).setPhysBytes ps (leBytes n v))

/-- `fetchBytes(b, n)` (R214): the bytes, or the exception. -/
def State.fetchBytes (s : State) (b : Word) (n : Nat) : Except Exc (List Byte) :=
  match s.locateParts .fetch s.priv [(b, n)] with
  | .error e => .error e
  | .ok ps => if s.accessOk .fetch ps then .ok (ps.map s.physByte) else .error .instrAccess

/-- A fetch: the bits, zero-extended, and the length; or the exception and its trap value. -/
inductive Fetched where
  | ok (bits : Bits) (len : Nat)
  | fault (e : Exc) (tval : Word)
  deriving DecidableEq, Repr

/-- The halfword or word of fetched bytes (R208). -/
def bitsOf (bs : List Byte) : Bits := (leValue bs).setWidth 32

/-- `Fetch(a)` (R214). -/
def State.fetch (s : State) (a : Word) : Fetched :=
  if s.cfg.extC then
    match s.fetchBytes a 2 with
    | .error e => .fault e a
    | .ok lo =>
      if (bitsOf lo).extractLsb' 0 2 ≠ 3#2 then .ok (bitsOf lo) 2
      else
        match s.fetchBytes (a + 2#64) 2 with
        | .error e => .fault e (a + 2#64)
        | .ok hi => .ok (bitsOf (lo ++ hi)) 4
  else
    match s.fetchBytes a 4 with
    | .error e => .fault e a
    | .ok w => .ok (bitsOf w) 4

end Sys2Proof.Machine
end

