-- ==== Sys2Proof/Machine/Triggers.lean ====
section
/-! DEFINITION. The trigger engine: which slots match, chains, hit bits, arbitration, and the instruction count
(61_debug_triggers R760 to R771). -/

namespace Sys2Proof.Machine

/-! ## Matching -/

/-- NAPOT comparison: `k` is the index of the least significant 0 bit of `t`, and bits 63:k+1 must agree; all ones
match everything (R761). -/
def napotMatches (t v : Word) : Bool := (v ^^^ t) &&& ~~~(t ^^^ (t + 1#64)) == 0#64

/-- `matches(slot, value)` by the `match` field (R761). -/
def matchValue (m : BitVec 4) (t v : Word) : Bool :=
  if m = 0#4 then v == t
  else if m = 1#4 then napotMatches t v
  else if m = 2#4 then !v.ult t
  else if m = 3#4 then v.ult t
  else if m = 4#4 then v.extractLsb' 0 32 &&& t.extractLsb' 32 32 == t.extractLsb' 0 32
  else if m = 5#4 then v.extractLsb' 32 32 &&& t.extractLsb' 32 32 == t.extractLsb' 0 32
  else false

/-- The fields of `tdata1` that a kind needs: `select`, and execute, store or load (R760). -/
def TrigKind.selected (k : TrigKind) (t : Word) : Bool :=
  match k with
  | .execAddr => t.getLsbD 2 && !t.getLsbD 19
  | .execOpcode => t.getLsbD 2 && t.getLsbD 19
  | .loadAddr => t.getLsbD 0 && !t.getLsbD 19
  | .loadData => t.getLsbD 0 && t.getLsbD 19
  | .storeAddr => t.getLsbD 1 && !t.getLsbD 19
  | .storeData => t.getLsbD 1 && t.getLsbD 19

/-- The mode bit of an `mcontrol` slot (R753). -/
def mcontrolMode (t : Word) : Priv → Bool
  | .m => t.getLsbD 6
  | .s => t.getLsbD 4
  | .u => t.getLsbD 3

/-- The mode bit of an `icount` slot (R755). -/
def icountMode (t : Word) : Priv → Bool
  | .m => t.getLsbD 9
  | .s => t.getLsbD 7
  | .u => t.getLsbD 6

/-- The action field is 1: enter debug mode (R751). -/
def mcontrolDebug (t : Word) : Bool := t.extractLsb' 12 4 == 1#4

def icountDebug (t : Word) : Bool := t.extractLsb' 0 6 == 1#6

/-- `timing` (R753). -/
def Timing.ofBit : Bool → Timing
  | false => .before
  | true => .after

/-- Action-0 suppression in M mode with interrupts disabled (R763). -/
def suppressed (debug : Bool) (p : Priv) (mie : Bool) : Bool := !debug && p == .m && !mie

/-- A slot qualifies for an evaluation (R762, R763) and matches (R761). -/
def TrigSlot.fires (t : TrigSlot) (k : TrigKind) (v : Word) (tm : Timing) (p : Priv) (mie : Bool) : Bool :=
  trigType t.tdata1 == 2#4 && k.selected t.tdata1 && Timing.ofBit (t.tdata1.getLsbD 18) == tm
    && mcontrolMode t.tdata1 p && !suppressed (mcontrolDebug t.tdata1) p mie
    && matchValue (t.tdata1.extractLsb' 7 4) t.tdata2 v

/-- `chain`; only `mcontrol` has the bit (R753, R755). -/
def TrigSlot.chained (t : TrigSlot) : Bool := trigType t.tdata1 == 2#4 && t.tdata1.getLsbD 11

/-! ## Chains (R764) -/

/-- A tripping chain: its slots and what it asks for. -/
structure ChainTrip where
  members : List Nat
  trip : Trip
  deriving DecidableEq, Repr

/-- The tripping chains of the slots from index `i` on; `members` and `all` are the current chain so far and whether
all of it fires. A chain that never ends in a slot with `chain` 0 never trips. -/
def chainScan (fires : TrigSlot → Bool) (tval : Word) : Nat → List Nat → Bool → List TrigSlot → List ChainTrip
  | _, _, _, [] => []
  | i, members, all, t :: rest =>
    if t.chained then chainScan fires tval (i + 1) (i :: members) (all && fires t) rest
    else if all && fires t then
      { members := i :: members, trip := { slot := i, debug := mcontrolDebug t.tdata1, tval := tval } }
        :: chainScan fires tval (i + 1) [] true rest
    else chainScan fires tval (i + 1) [] true rest

/-- The hit bit of a slot's type (R753, R755). -/
def setHit (t : TrigSlot) : TrigSlot :=
  if trigType t.tdata1 == 3#4 then { t with tdata1 := t.tdata1 ||| (1#64 <<< 24) }
  else { t with tdata1 := t.tdata1 ||| (1#64 <<< 20) }

/-- Set the hit bit of every slot whose index is listed (R769). -/
def markHits (slots : List Nat) : Nat → List TrigSlot → List TrigSlot
  | _, [] => []
  | i, t :: rest => (if slots.contains i then setHit t else t) :: markHits slots (i + 1) rest

/-- `triggerEval(kind, value, timing)` (R760, R769): the trips, and the state with the hit bits set. -/
def State.triggerEval (s : State) (k : TrigKind) (v : Word) (tm : Timing) (tval : Word) : List Trip × State :=
  let trips := chainScan (fun t => t.fires k v tm s.priv (s.status mstatusMIE)) tval 0 [] true s.trig
  match trips with
  | [] => ([], s)
  | _ => (trips.map ChainTrip.trip, { s with trig := markHits (trips.flatMap ChainTrip.members) 0 s.trig })

/-- The trip of the lowest slot. -/
def lowestTrip : List Trip → Option Trip
  | [] => none
  | t :: rest =>
    match lowestTrip rest with
    | none => some t
    | some u => if t.slot ≤ u.slot then some t else some u

/-- Arbitration of the trips of one check point (R771). -/
def arbitrate (trips : List Trip) : Option Trip :=
  match lowestTrip (trips.filter Trip.debug) with
  | some t => some t
  | none => lowestTrip trips

/-! ## Instruction count (R770) -/

/-- `icount.count` (R755). -/
def icountOf (t : Word) : BitVec 14 := t.extractLsb' 10 14

/-- Whether a slot counts this instruction: type 3, its mode bit, not suppressed, its count not 0, and not written by
the instruction itself (R770, R763, R853; log 9). -/
def TrigSlot.counts (t : TrigSlot) (c : Ctx) (i : Nat) : Bool :=
  trigType t.tdata1 == 3#4 && icountMode t.tdata1 c.startPriv
    && !suppressed (icountDebug t.tdata1) c.startPriv c.startMie
    && icountOf t.tdata1 != 0#14 && c.slotWritten != some i

/-- Count a slot down by one; at 0 it is hit. -/
def TrigSlot.countDown (t : TrigSlot) : TrigSlot :=
  let u : TrigSlot := { t with tdata1 := t.tdata1 - (1#64 <<< 10) }
  if icountOf u.tdata1 = 0#14 then setHit u else u

/-- The instruction-count triggers of a retired instruction: the trips and the slots after it. -/
def icountScan (c : Ctx) : Nat → List TrigSlot → List Trip × List TrigSlot
  | _, [] => ([], [])
  | i, t :: rest =>
    let r := icountScan c (i + 1) rest
    if t.counts c i then
      (if icountOf t.countDown.tdata1 = 0#14 then
          { slot := i, debug := icountDebug t.tdata1, tval := 0#64 } :: r.1 else r.1,
        t.countDown :: r.2)
    else (r.1, t :: r.2)

end Sys2Proof.Machine
end

