-- ==== Sys2Proof/Machine/Ops.lean ====
section
/-! DEFINITION. The named operations the meanings share: starting, committing and undoing an instruction, taking an
exception, an interrupt or an NMI, entering debug mode, returning from a trap, and what a handler's result becomes
(40_step_protocol R303 to R310, R340 to R342; 60_exceptions R680 to R712; 61_debug_triggers R772 to R780). -/

namespace Sys2Proof.Machine

/-! ## The instruction's own effects -/

/-- Begin an instruction of `len` bytes: the next pc, and an empty instruction record (R303 (e)). -/
def State.startInstr (s : State) (len : Nat) : State :=
  { s with ctx := { s.ctx with
      nextPc := s.pc + BitVec.ofNat 64 len
      retired := false
      startPc := s.pc
      startPriv := s.priv
      startMie := s.status mstatusMIE
      startLocked := s.mdseacLocked
      afterTrips := []
      wroteX := none
      oldX := 0
      load := none
      store := none
      csrWritten := []
      csrOld := []
      slotWritten := none
      exceptionTaken := none
      toHost := none
      enteredDebug := false } }

/-- `x[rd] <- v`, recorded with the old value in the instruction's change record unless `rd` is `x0` (R314). -/
def State.writeX (s : State) (rd : Reg) (v : Word) : State :=
  let t := s.setX rd v
  { t with ctx := { t.ctx with
      wroteX := if rd.toNat = 0 then t.ctx.wroteX else some rd
      oldX := if rd.toNat = 0 then t.ctx.oldX else s.readX rd } }

/-- `ctx.nextPc <- t` (R307). -/
def State.setNextPc (s : State) (t : Word) : State := { s with ctx := { s.ctx with nextPc := t } }

/-! ## Commit (R310) -/

/-- Append an entry, evicting the oldest ones beyond the depth (R803). -/
def pushBounded {α : Type} (depth : Nat) (q : List α) (e : α) : List α :=
  (q ++ [e]).drop ((q ++ [e]).length - depth)

/-- A register write makes every load-queue entry of that register not valid (R805). -/
def invalidateLoads (r : Option Reg) (q : List LoadEntry) : List LoadEntry :=
  match r with
  | none => q
  | some r => q.map fun e => if e.rd = r then { e with valid := false } else e

/-- The load queue after a commit (R310 item 2, R801). -/
def State.loadQueueAfter (s : State) : List LoadEntry :=
  let q := invalidateLoads s.ctx.wroteX s.loadQueue
  match s.ctx.load with
  | none => q
  | some l =>
    if s.cfg.loadQueueEnabled then
      pushBounded s.cfg.loadQueueDepth q
        { size := l.size, addr := l.addr, rd := l.rd, prior := l.prior, valid := l.rd != 0#5, wide := false,
          tag := s.loadTag }
    else q

/-- The store queue after a commit (R310 item 3, R802). -/
def State.storeQueueAfter (s : State) : List StoreEntry :=
  match s.ctx.store with
  | none => s.storeQueue
  | some w =>
    pushBounded s.cfg.storeQueueDepth s.storeQueue
      { size := w.size, addr := w.addr, prior := w.prior, phys := w.phys, valid := true, wide := false, tag := 0 }

/-- Whether a configured address is one of the `n` bytes from `a` (log 10). -/
def covers (a : Word) (n : Nat) (target : Option Word) : Bool :=
  match target with
  | none => false
  | some t => decide ((t - a).toNat < n)

/-- The stored value, when the committed store covers TOHOST_ADDRESS (R310 item 3, R320). -/
def State.toHostAfter (s : State) : Option Word :=
  match s.ctx.store with
  | none => none
  | some w => if covers w.addr w.size s.cfg.tohostAddress then some w.value else none

/-- Console output after the commit of a store to CONSOLE_IO_ADDRESS (R220). -/
def State.consoleAfter (s : State) : List Byte :=
  match s.ctx.store with
  | none => s.consoleOut
  | some w =>
    if s.cfg.consoleIoAddress = some w.addr then s.consoleOut ++ [w.value.setWidth 8] else s.consoleOut

/-- `commit(ctx)` (R310): the instruction retires. -/
def State.commit (s : State) : State :=
  { s with
    pc := s.ctx.nextPc
    loadQueue := s.loadQueueAfter
    storeQueue := s.storeQueueAfter
    consoleOut := s.consoleAfter
    ctx := { s.ctx with toHost := s.toHostAfter, retired := true } }

/-- The next state of an instruction that only writes a register (R350). -/
def State.retireX (s : State) (len : Nat) (rd : Reg) (v : Word) : State := ((s.startInstr len).writeX rd v).commit

/-- The next state of an instruction that changes only the pc. -/
def State.retireNop (s : State) (len : Nat) : State := (s.startInstr len).commit

/-- `undoInstruction(ctx)` (R342), by snapshot (log 8): `s0` is the state before the handler. Trigger hit bits, the
instrumentation counts and the devices' own state are not restored. -/
def State.undo (s0 s : State) : State :=
  { s0 with
    trig := s.trig
    counts := s.counts
    tick := s.tick
    ctx := { s0.ctx with nextPc := s0.pc, retired := false } }

/-! ## Trap events (R652, R690) -/

/-- `xcause` of an exception or an interrupt, and of an NMI as given (R86, R690, R685). -/
def TrapEvent.causeWord : TrapEvent → Word
  | .exception c _ _ => BitVec.ofNat 64 c.code
  | .interrupt i => 0x8000000000000000#64 ||| BitVec.ofNat 64 i.code
  | .nmi c => c

/-- The trap value: 0 for an interrupt and for an NMI (R662). -/
def TrapEvent.tval : TrapEvent → Word
  | .exception _ t _ => t
  | .interrupt _ => 0#64
  | .nmi _ => 0#64

/-- The saved pc: an exception's own `epc`, else the current pc (R692). -/
def TrapEvent.epc (e : TrapEvent) (pc : Word) : Word :=
  match e with
  | .exception _ _ p => p
  | .interrupt _ => pc
  | .nmi _ => pc

/-- The value a list of pairs gives a key, else 0. -/
def valueOf (k : CountKey) : List (CountKey × BitVec 4) → BitVec 4
  | [] => 0#4
  | (j, v) :: t => if j = k then v else valueOf k t

/-- `SECONDARY_CAUSE(event)` (R143; log 7). -/
def Config.secondary (c : Config) (e : TrapEvent) : Word :=
  match c.secondaryCause with
  | .byKind l => zext (valueOf e.key l)
  | .external k => zext (Config.secondaryExternal k e)

/-- The delegation bit of an event (R691). An NMI has none. -/
def State.delegated (s : State) : TrapEvent → Bool
  | .exception c _ _ => s.csr.medeleg.getLsbD c.code
  | .interrupt i => s.csr.mideleg.getLsbD i.code
  | .nmi _ => false

/-- `targetMode(e)` (R691). -/
def State.targetMode (s : State) (e : TrapEvent) : Priv :=
  if s.cfg.extS ∧ s.priv ≠ .m ∧ s.delegated e then .s else .m

/-- One more event of a kind (R698). -/
def bumpCount (k : CountKey) : List (CountKey × Nat) → List (CountKey × Nat)
  | [] => [(k, 1)]
  | (j, n) :: t => if j = k then (j, n + 1) :: t else (j, n) :: bumpCount k t

/-- `mstatus` at a trap into M mode (R695). -/
def statusToM (v : Word) (p : Priv) : Word :=
  putMpp (putBit (putBit v mstatusMPIE (v.getLsbD mstatusMIE)) mstatusMIE false) p.code

/-- `mstatus` at a trap into S mode (R696). -/
def statusToS (v : Word) (p : Priv) : Word :=
  putBit (putBit (putBit v mstatusSPIE (v.getLsbD mstatusSIE)) mstatusSIE false) mstatusSPP (p == .s)

/-- The base of a vector register (R694). -/
def vectorBase (tvec : Word) : Word := tvec &&& ~~~3#64

/-- Direct or vectored (R694). -/
def vectorOf (tvec : Word) (e : TrapEvent) : Word :=
  match e with
  | .interrupt i =>
    if tvec.extractLsb' 0 2 = 1#2 then vectorBase tvec + BitVec.ofNat 64 (4 * i.code) else vectorBase tvec
  | .exception _ _ _ => vectorBase tvec
  | .nmi _ => vectorBase tvec

/-- The physical bytes of the fast-interrupt vector entry (R697). -/
def State.fastEntry (s : State) : List Word := addrRange (s.csrRead .meihap) 8

/-- Whether the fast-interrupt vector read succeeds (R697; log 30). -/
def State.fastReadOk (s : State) : Bool :=
  s.pmpAllows .load .m (s.csrRead .meihap) 8 && s.accessOk .load s.fastEntry

/-- Whether an event goes through the fast-interrupt table (R697). -/
def State.usesFast (s : State) (e : TrapEvent) : Bool := s.cfg.fastIntEnabled && e == .interrupt .mei

/-- `vectorM` (R694), the fast-interrupt dispatch of R697 included. -/
def State.vectorM (s : State) (e : TrapEvent) : Word :=
  if s.usesFast e then
    if s.fastReadOk then leValue (s.fastEntry.map s.physByte) &&& s.cfg.epcMask else vectorBase s.csr.mtvec
  else vectorOf s.csr.mtvec e

/-- A failed vector read makes an NMI pending; the read may touch a device (R697). -/
def State.afterVector (s : State) (e : TrapEvent) : State :=
  if s.usesFast e then
    if s.fastReadOk then s.touch s.fastEntry
    else { s with nmiPending := true, nmiCause := s.cfg.nmiCauseFastInt }
  else s

/-- Save into M and enter it at `pc` (R690, R685). -/
def State.enterM (s : State) (e : TrapEvent) (pc : Word) : State :=
  { s with
    csr := { s.csr with
      mepc := e.epc s.pc &&& s.cfg.epcMask
      mcause := e.causeWord
      mtval := e.tval
      mscause := s.cfg.secondary e
      mstatus := statusToM s.csr.mstatus s.priv }
    priv := .m
    pc := pc }

/-- Save into S and enter it (R690, R696). -/
def State.enterS (s : State) (e : TrapEvent) : State :=
  { s with
    csr := { s.csr with
      sepc := e.epc s.pc &&& s.cfg.epcMask
      scause := e.causeWord
      stval := e.tval
      mstatus := statusToS s.csr.mstatus s.priv }
    priv := .s
    pc := vectorOf s.csr.stvec e }

/-- The cause of a synchronous exception (R320). -/
def TrapEvent.taken : TrapEvent → Option Exc
  | .exception c _ _ => some c
  | .interrupt _ => none
  | .nmi _ => none

/-- Count the event and note a synchronous exception (R690, R698). -/
def State.noteTrap (s : State) (e : TrapEvent) : State :=
  { s with
    counts := bumpCount e.key s.counts
    ctx := { s.ctx with exceptionTaken := e.taken } }

/-- `takeTrap(e)` (R690), for an exception or an interrupt. -/
def State.takeTrap (s : State) (e : TrapEvent) : State :=
  if s.targetMode e = .m then ((s.afterVector e).enterM e (s.vectorM e)).noteTrap e
  else (s.enterS e).noteTrap e

/-- `takeNmi()` (R685). -/
def State.takeNmi (s : State) : State :=
  { (s.enterM (.nmi s.nmiCause) s.cfg.nmiPc).noteTrap (.nmi s.nmiCause) with nmiPending := false }

/-! ## Debug entry and trigger actions -/

/-- `dcsr` with `cause` and `prv` set (R140, R780). -/
def dcsrEntry (v : Word) (c : DebugCause) (p : Priv) : Word :=
  merge (merge v (zext c.code <<< 6) 0x1C0#64) (zext p.code) 3#64

/-- `enterDebug(cause, p)` (R780). -/
def State.enterDebug (s : State) (c : DebugCause) (p : Word) : State :=
  { s with
    csr := { s.csr with dpc := p &&& s.cfg.epcMask, dcsr := dcsrEntry s.csr.dcsr c s.priv }
    debugMode := true
    debugHaltPending := false
    stepPending := false
    ctx := { s.ctx with enteredDebug := true } }

/-- `triggerAction(t, epc)` (R772). -/
def State.triggerAction (s : State) (t : Trip) (epc : Word) : State :=
  if t.debug then s.enterDebug .trigger epc else s.takeTrap (.exception .breakpoint t.tval epc)

/-! ## Trap return (R700) -/

/-- The mode a two-bit code names; a code that names none is never held (R60), and stands for M. -/
def modeOf (c : BitVec 2) : Priv :=
  match Priv.ofCode c with
  | some p => p
  | none => .m

/-- The least privileged mode (R700). -/
def Config.leastMode (c : Config) : Priv := if c.extU then .u else .m

/-- `mstatus` after `mret` (R552). -/
def statusMret (c : Config) (v : Word) : Word :=
  putMpp (putBit (putBit v mstatusMIE (v.getLsbD mstatusMPIE)) mstatusMPIE true) c.leastMode.code

/-- `mstatus` after `sret` (R555). -/
def statusSret (v : Word) : Word :=
  putBit (putBit (putBit v mstatusSIE (v.getLsbD mstatusSPIE)) mstatusSPIE true) mstatusSPP false

/-- The staged effects of `mret` (R552). -/
def State.returnM (s : State) : State :=
  { s with
    csr := { s.csr with mstatus := statusMret s.cfg s.csr.mstatus }
    priv := modeOf (mppOf s.csr.mstatus)
    ctx := { s.ctx with
      nextPc := s.csr.mepc
      csrOld := [(Csr.num .mstatus, s.csr.mstatus)] } }

/-- The staged effects of `sret` (R555). -/
def State.returnS (s : State) : State :=
  { s with
    csr := { s.csr with mstatus := statusSret s.csr.mstatus }
    priv := if s.status mstatusSPP then .s else .u
    ctx := { s.ctx with
      nextPc := s.csr.sepc
      csrOld := [(Csr.num .mstatus, s.csr.mstatus)] } }

/-! ## What a handler's result becomes (R303 (e) to (g)) -/

/-- The result of a handler: it completed, raised an exception, met a before-timing trip, or enters debug mode. -/
inductive Handled where
  | ok (s : State)
  | raise (e : Exc) (tval : Word) (s : State)
  | trip (t : Trip) (s : State)
  | debug (c : DebugCause) (s : State)

/-- The end of phase (e), and phases (f) and (g): `s0` is the state before the handler. -/
def State.finish (s0 : State) : Handled → State
  | .ok s =>
    match arbitrate s.ctx.afterTrips with
    | some t => (s0.undo s).triggerAction t s0.pc
    | none => s.commit
  | .raise e tval s => (s0.undo s).takeTrap (.exception e tval s0.pc)
  | .trip t s => (s0.undo s).triggerAction t s0.pc
  | .debug c s => (s0.undo s).enterDebug c s0.pc

/-- `illegalTval(bits)` (R662). -/
def Config.illegalValue (c : Config) (bits : Bits) : Word :=
  match c.illegalTval with
  | .instruction => zext bits
  | .zero => 0#64

/-- Illegal instruction, raised by an instruction's own checks. -/
def State.illegal (s : State) (bits : Bits) : Handled := .raise .illegal (s.cfg.illegalValue bits) s

/-! ## Interrupts (R671 to R681, R712) -/

/-- `sampleInterruptInputs()` (R712). A hart whose HART_ID is not below NUM_HARTS has no CLINT word: its MSIP is taken
as 0 and its compare value as all ones (DESIGN CHOICE, log 16). -/
def State.sampleInputs (s : State) : State :=
  if s.cfg.clintEnabled then
    let h := s.cfg.hartId.toNat
    let msip := s.clint.msip[h]?.getD false
    let mtip := decide ((s.clint.mtimecmp[h]?.getD allOnes).toNat ≤ s.clint.mtime.toNat)
    { s with csr := { s.csr with mip := putBit (putBit s.csr.mip 3 msip) 7 mtip } }
  else s

/-- The fixed priority order within a target mode (R681). -/
def Irq.order : List Irq := [.mei, .msi, .mti, .sei, .ssi, .sti]

/-- Interrupts with target M are globally enabled (R672). -/
def State.mEnabled (s : State) : Bool := s.priv != .m || s.status mstatusMIE

/-- Interrupts with target S are globally enabled (R672). -/
def State.sEnabled (s : State) : Bool :=
  s.cfg.extS && (s.priv == .u || (s.priv == .s && s.status mstatusSIE))

/-- `selectInterrupt()` (R680). -/
def State.selectInterrupt (s : State) : Option Irq :=
  let pend := s.csr.mip &&& s.csr.mie
  if s.stepPending && !s.csr.dcsr.getLsbD 11 then none
  else
    match Irq.order.find? fun i => s.mEnabled && (pend &&& ~~~s.csr.mideleg).getLsbD i.code with
    | some i => some i
    | none => Irq.order.find? fun i => s.sEnabled && (pend &&& s.csr.mideleg).getLsbD i.code

end Sys2Proof.Machine
end

