-- ==== Sys2Proof/Machine/Control.lean ====
section
/-! DEFINITION. Control transfer (43_control_transfer R430 to R441). -/

namespace Sys2Proof.Machine

/-- Whether a target is aligned to IALIGN (R430). -/
def State.targetOk (s : State) (t : Word) : Bool := s.cfg.extC || !t.getLsbD 1

/-- A jump to `t` that links in `rd` (R431, R432): the link is the address after the instruction. -/
def State.jumpBody (s : State) (rd : Reg) (t : Word) : Handled :=
  if s.targetOk t then .ok ((s.writeX rd s.ctx.nextPc).setNextPc t) else .raise .instrMisaligned t s

/-- A jump of `len` bytes. -/
def State.jump (s : State) (len : Nat) (rd : Reg) (t : Word) : Outcome :=
  .next ((s.startInstr len).finish ((s.startInstr len).jumpBody rd t))

/-- The target of `jalr`: bit 0 of the sum is cleared (R432). -/
def State.jalrTarget (s : State) (rs1 : Reg) (off : Word) : Word := (s.readX rs1 + off) &&& ~~~1#64

/-- A conditional branch to `t` (R441). -/
def State.branchBody (s : State) (taken : Bool) (t : Word) : Handled :=
  if taken then (if s.targetOk t then .ok (s.setNextPc t) else .raise .instrMisaligned t s) else .ok s

/-- A branch of `len` bytes on a condition (R433 to R438, R441). -/
def State.branch (s : State) (len : Nat) (c : Cond) (rs1 rs2 : Reg) (off : Word) : Outcome :=
  .next ((s.startInstr len).finish
    ((s.startInstr len).branchBody (c.holds (s.readX rs1) (s.readX rs2)) (s.pc + off)))

/-- `jal` (R431). -/
def execJal (rd : Reg) (off : BitVec 21) (s : State) : Outcome := s.jump 4 rd (s.pc + sext off)

/-- `jalr` (R432). -/
def execJalr (rd rs1 : Reg) (imm : BitVec 12) (s : State) : Outcome := s.jump 4 rd (s.jalrTarget rs1 (sext imm))

/-- `beq` (R433). -/
def execBeq (rs1 rs2 : Reg) (off : BitVec 13) (s : State) : Outcome := s.branch 4 .eq rs1 rs2 (sext off)

/-- `bne` (R434). -/
def execBne (rs1 rs2 : Reg) (off : BitVec 13) (s : State) : Outcome := s.branch 4 .ne rs1 rs2 (sext off)

/-- `blt` (R435). -/
def execBlt (rs1 rs2 : Reg) (off : BitVec 13) (s : State) : Outcome := s.branch 4 .lt rs1 rs2 (sext off)

/-- `bge` (R436). -/
def execBge (rs1 rs2 : Reg) (off : BitVec 13) (s : State) : Outcome := s.branch 4 .ge rs1 rs2 (sext off)

/-- `bltu` (R437). -/
def execBltu (rs1 rs2 : Reg) (off : BitVec 13) (s : State) : Outcome := s.branch 4 .ltu rs1 rs2 (sext off)

/-- `bgeu` (R438). -/
def execBgeu (rs1 rs2 : Reg) (off : BitVec 13) (s : State) : Outcome := s.branch 4 .geu rs1 rs2 (sext off)

end Sys2Proof.Machine
end

