-- ==== Sys2Proof/Machine/LoadStore.lean ====
section
/-! DEFINITION. Loads, stores and fences (44_load_store R460 to R477). -/

namespace Sys2Proof.Machine

/-- How a load extends the bytes it read (R461). -/
inductive LoadExt where
  | sign | zero
  deriving DecidableEq, Repr

/-- `ext_64` of the low `n` bytes of a value read (R461). -/
def LoadExt.extend (e : LoadExt) (n : Nat) (v : Word) : Word :=
  match e with
  | .zero => v
  | .sign => sext (v.setWidth (8 * n))

/-- The effective address (R460). -/
def State.effAddr (s : State) (rs1 : Reg) (off : Word) : Word := s.readX rs1 + off

/-- Append after-timing trips (R768). -/
def State.addAfter (s : State) (ts : List Trip) : State :=
  { s with ctx := { s.ctx with afterTrips := s.ctx.afterTrips ++ ts } }

/-- The after-timing checks of a load (R768). -/
def State.loadChecks (s : State) (a v : Word) : State :=
  let r1 := s.triggerEval .loadAddr a .after a
  let r2 := r1.2.triggerEval .loadData v .after a
  r2.2.addAfter (r1.1 ++ r2.1)

/-- The register write of a load, and what its commit pushes (R461). -/
def State.loadWrite (s : State) (n : Nat) (e : LoadExt) (rd : Reg) (a v : Word) : State :=
  let t := s.writeX rd (e.extend n v)
  { t with ctx := { t.ctx with load := some { size := n, addr := a, rd := rd, prior := s.readX rd } } }

/-- `Load(n, ext)` at the effective address `a` (R461). -/
def State.loadBody (s : State) (n : Nat) (e : LoadExt) (rd : Reg) (a : Word) : Handled :=
  let r := s.triggerEval .loadAddr a .before a
  match arbitrate r.1 with
  | some t => .trip t r.2
  | none =>
    match r.2.memRead a n with
    | .error x => .raise x a r.2
    | .ok (v, s2) => .ok ((s2.loadChecks a v).loadWrite n e rd a v)

/-- A load of `len` bytes. -/
def State.load (s : State) (len n : Nat) (e : LoadExt) (rd rs1 : Reg) (off : Word) : Outcome :=
  .next ((s.startInstr len).finish ((s.startInstr len).loadBody n e rd (s.effAddr rs1 off)))

/-- The low `n` bytes of a register, zero-extended (R461, R760). -/
def lowBytes (n : Nat) (v : Word) : Word := zext (v.setWidth (8 * n))

/-- The before-timing checks of a store; both are combined (R767). -/
def State.storeChecks (s : State) (tm : Timing) (a v : Word) : List Trip × State :=
  let r1 := s.triggerEval .storeAddr a tm a
  let r2 := r1.2.triggerEval .storeData v tm a
  (r1.1 ++ r2.1, r2.2)

/-- What the commit of a store pushes (R461). -/
def State.noteStore (s : State) (n : Nat) (a v : Word) (w : Written) : State :=
  { s with ctx := { s.ctx with store := some { size := n, addr := a, prior := w.prior, phys := w.phys, value := v } } }

/-- `Store(n)` of the value `v` at the effective address `a` (R461). -/
def State.storeBody (s : State) (n : Nat) (a v : Word) : Handled :=
  let r := s.storeChecks .before a v
  match arbitrate r.1 with
  | some t => .trip t r.2
  | none =>
    match r.2.memWrite a n v with
    | .error x => .raise x a r.2
    | .ok (w, s2) =>
      let r2 := s2.storeChecks .after a v
      .ok ((r2.2.addAfter r2.1).noteStore n a v w)

/-- A store of `len` bytes of instruction and `n` bytes of data. -/
def State.store (s : State) (len n : Nat) (rs1 rs2 : Reg) (off : Word) : Outcome :=
  .next ((s.startInstr len).finish
    ((s.startInstr len).storeBody n (s.effAddr rs1 off) (lowBytes n (s.readX rs2))))

/-- `lb` (R462). -/
def execLb (rd rs1 : Reg) (imm : BitVec 12) (s : State) : Outcome := s.load 4 1 .sign rd rs1 (sext imm)

/-- `lh` (R463). -/
def execLh (rd rs1 : Reg) (imm : BitVec 12) (s : State) : Outcome := s.load 4 2 .sign rd rs1 (sext imm)

/-- `lw` (R464). -/
def execLw (rd rs1 : Reg) (imm : BitVec 12) (s : State) : Outcome := s.load 4 4 .sign rd rs1 (sext imm)

/-- `ld` (R465). -/
def execLd (rd rs1 : Reg) (imm : BitVec 12) (s : State) : Outcome := s.load 4 8 .zero rd rs1 (sext imm)

/-- `lbu` (R466). -/
def execLbu (rd rs1 : Reg) (imm : BitVec 12) (s : State) : Outcome := s.load 4 1 .zero rd rs1 (sext imm)

/-- `lhu` (R467). -/
def execLhu (rd rs1 : Reg) (imm : BitVec 12) (s : State) : Outcome := s.load 4 2 .zero rd rs1 (sext imm)

/-- `lwu` (R468). -/
def execLwu (rd rs1 : Reg) (imm : BitVec 12) (s : State) : Outcome := s.load 4 4 .zero rd rs1 (sext imm)

/-- `sb` (R469). -/
def execSb (rs1 rs2 : Reg) (imm : BitVec 12) (s : State) : Outcome := s.store 4 1 rs1 rs2 (sext imm)

/-- `sh` (R470). -/
def execSh (rs1 rs2 : Reg) (imm : BitVec 12) (s : State) : Outcome := s.store 4 2 rs1 rs2 (sext imm)

/-- `sw` (R471). -/
def execSw (rs1 rs2 : Reg) (imm : BitVec 12) (s : State) : Outcome := s.store 4 4 rs1 rs2 (sext imm)

/-- `sd` (R472). -/
def execSd (rs1 rs2 : Reg) (imm : BitVec 12) (s : State) : Outcome := s.store 4 8 rs1 rs2 (sext imm)

/-- `fence` (R474): a no-op, whatever it orders. -/
def execFence (_fm _pred _succ : BitVec 4) (s : State) : Outcome := .next (s.retireNop 4)

/-- `fence.i` (R475): empties a decode cache the model does not have (R305, log 17). -/
def execFenceI (s : State) : Outcome := .next (s.retireNop 4)

end Sys2Proof.Machine
end

