-- ==== Sys2Proof/Machine/Integer.lean ====
section
/-! DEFINITION. The integer computational instructions (41_integer R351 to R380): one meaning each, over the register
retirement of R350. -/

namespace Sys2Proof.Machine

/-- The low 32 bits of a register value (R381). -/
def low32 (v : Word) : BitVec 32 := v.setWidth 32

/-- A 6-bit shift amount from a register (R382). -/
def shamt6 (v : Word) : Nat := (v.extractLsb' 0 6).toNat

/-- A 5-bit shift amount from a register (R382). -/
def shamt5 (v : Word) : Nat := (v.extractLsb' 0 5).toNat

/-- `lui` (R351). -/
def execLui (rd : Reg) (imm : BitVec 20) (s : State) : Outcome :=
  .next (s.retireX 4 rd (immU imm))

/-- `auipc` (R352). -/
def execAuipc (rd : Reg) (imm : BitVec 20) (s : State) : Outcome :=
  .next (s.retireX 4 rd (s.pc + immU imm))

/-- `addi` (R353). -/
def execAddi (rd rs1 : Reg) (imm : BitVec 12) (s : State) : Outcome :=
  .next (s.retireX 4 rd (s.readX rs1 + sext imm))

/-- `slti` (R354). -/
def execSlti (rd rs1 : Reg) (imm : BitVec 12) (s : State) : Outcome :=
  .next (s.retireX 4 rd (boolWord (ltS (s.readX rs1) (sext imm))))

/-- `sltiu` (R355). -/
def execSltiu (rd rs1 : Reg) (imm : BitVec 12) (s : State) : Outcome :=
  .next (s.retireX 4 rd (boolWord (ltU (s.readX rs1) (sext imm))))

/-- `xori` (R356). -/
def execXori (rd rs1 : Reg) (imm : BitVec 12) (s : State) : Outcome :=
  .next (s.retireX 4 rd (s.readX rs1 ^^^ sext imm))

/-- `ori` (R357). -/
def execOri (rd rs1 : Reg) (imm : BitVec 12) (s : State) : Outcome :=
  .next (s.retireX 4 rd (s.readX rs1 ||| sext imm))

/-- `andi` (R358). -/
def execAndi (rd rs1 : Reg) (imm : BitVec 12) (s : State) : Outcome :=
  .next (s.retireX 4 rd (s.readX rs1 &&& sext imm))

/-- `slli` (R359). -/
def execSlli (rd rs1 : Reg) (shamt : BitVec 6) (s : State) : Outcome :=
  .next (s.retireX 4 rd (s.readX rs1 <<< shamt.toNat))

/-- `srli` (R360). -/
def execSrli (rd rs1 : Reg) (shamt : BitVec 6) (s : State) : Outcome :=
  .next (s.retireX 4 rd (s.readX rs1 >>> shamt.toNat))

/-- `srai` (R361). -/
def execSrai (rd rs1 : Reg) (shamt : BitVec 6) (s : State) : Outcome :=
  .next (s.retireX 4 rd ((s.readX rs1).sshiftRight shamt.toNat))

/-- `add` (R362). -/
def execAdd (rd rs1 rs2 : Reg) (s : State) : Outcome :=
  .next (s.retireX 4 rd (s.readX rs1 + s.readX rs2))

/-- `sub` (R363). -/
def execSub (rd rs1 rs2 : Reg) (s : State) : Outcome :=
  .next (s.retireX 4 rd (s.readX rs1 - s.readX rs2))

/-- `sll` (R364). -/
def execSll (rd rs1 rs2 : Reg) (s : State) : Outcome :=
  .next (s.retireX 4 rd (s.readX rs1 <<< shamt6 (s.readX rs2)))

/-- `slt` (R365). -/
def execSlt (rd rs1 rs2 : Reg) (s : State) : Outcome :=
  .next (s.retireX 4 rd (boolWord (ltS (s.readX rs1) (s.readX rs2))))

/-- `sltu` (R366). -/
def execSltu (rd rs1 rs2 : Reg) (s : State) : Outcome :=
  .next (s.retireX 4 rd (boolWord (ltU (s.readX rs1) (s.readX rs2))))

/-- `xor` (R367). -/
def execXor (rd rs1 rs2 : Reg) (s : State) : Outcome :=
  .next (s.retireX 4 rd (s.readX rs1 ^^^ s.readX rs2))

/-- `srl` (R368). -/
def execSrl (rd rs1 rs2 : Reg) (s : State) : Outcome :=
  .next (s.retireX 4 rd (s.readX rs1 >>> shamt6 (s.readX rs2)))

/-- `sra` (R369). -/
def execSra (rd rs1 rs2 : Reg) (s : State) : Outcome :=
  .next (s.retireX 4 rd ((s.readX rs1).sshiftRight (shamt6 (s.readX rs2))))

/-- `or` (R370). -/
def execOr (rd rs1 rs2 : Reg) (s : State) : Outcome :=
  .next (s.retireX 4 rd (s.readX rs1 ||| s.readX rs2))

/-- `and` (R371). -/
def execAnd (rd rs1 rs2 : Reg) (s : State) : Outcome :=
  .next (s.retireX 4 rd (s.readX rs1 &&& s.readX rs2))

/-- `addiw` (R372). -/
def execAddiw (rd rs1 : Reg) (imm : BitVec 12) (s : State) : Outcome :=
  .next (s.retireX 4 rd (sext (low32 (s.readX rs1) + low32 (sext imm))))

/-- `slliw` (R373). -/
def execSlliw (rd rs1 : Reg) (shamt : BitVec 5) (s : State) : Outcome :=
  .next (s.retireX 4 rd (sext (low32 (s.readX rs1) <<< shamt.toNat)))

/-- `srliw` (R374). -/
def execSrliw (rd rs1 : Reg) (shamt : BitVec 5) (s : State) : Outcome :=
  .next (s.retireX 4 rd (sext (low32 (s.readX rs1) >>> shamt.toNat)))

/-- `sraiw` (R375). -/
def execSraiw (rd rs1 : Reg) (shamt : BitVec 5) (s : State) : Outcome :=
  .next (s.retireX 4 rd (sext ((low32 (s.readX rs1)).sshiftRight shamt.toNat)))

/-- `addw` (R376). -/
def execAddw (rd rs1 rs2 : Reg) (s : State) : Outcome :=
  .next (s.retireX 4 rd (sext (low32 (s.readX rs1) + low32 (s.readX rs2))))

/-- `subw` (R377). -/
def execSubw (rd rs1 rs2 : Reg) (s : State) : Outcome :=
  .next (s.retireX 4 rd (sext (low32 (s.readX rs1) - low32 (s.readX rs2))))

/-- `sllw` (R378). -/
def execSllw (rd rs1 rs2 : Reg) (s : State) : Outcome :=
  .next (s.retireX 4 rd (sext (low32 (s.readX rs1) <<< shamt5 (s.readX rs2))))

/-- `srlw` (R379). -/
def execSrlw (rd rs1 rs2 : Reg) (s : State) : Outcome :=
  .next (s.retireX 4 rd (sext (low32 (s.readX rs1) >>> shamt5 (s.readX rs2))))

/-- `sraw` (R380). -/
def execSraw (rd rs1 rs2 : Reg) (s : State) : Outcome :=
  .next (s.retireX 4 rd (sext ((low32 (s.readX rs1)).sshiftRight (shamt5 (s.readX rs2)))))

end Sys2Proof.Machine
end

