-- ==== Sys2Proof/Machine/MulDiv.lean ====
section
/-! DEFINITION. Multiply and divide (42_muldiv R401 to R413): products and quotients are computed on unbounded integers
and then cut (R400); division by zero and overflow give fixed results (R414). -/

namespace Sys2Proof.Machine

/-- Bits 127:64 of an exact product (R402 to R404). -/
def highHalf (p : Int) : Word := (BitVec.ofInt 128 p).extractLsb' 64 64

/-- Signed division (R405, R414). -/
def divS (a b : Word) : Word :=
  if b = 0#64 then allOnes
  else if a = 0x8000000000000000#64 ∧ b = allOnes then 0x8000000000000000#64
  else BitVec.ofInt 64 (a.toInt.tdiv b.toInt)

/-- Unsigned division (R406, R414). -/
def divU (a b : Word) : Word := if b = 0#64 then allOnes else BitVec.ofNat 64 (a.toNat / b.toNat)

/-- Signed remainder (R407, R414). -/
def remS (a b : Word) : Word :=
  if b = 0#64 then a
  else if a = 0x8000000000000000#64 ∧ b = allOnes then 0#64
  else BitVec.ofInt 64 (a.toInt.tmod b.toInt)

/-- Unsigned remainder (R408, R414). -/
def remU (a b : Word) : Word := if b = 0#64 then a else BitVec.ofNat 64 (a.toNat % b.toNat)

/-- 32-bit signed division (R410). -/
def divS32 (a b : BitVec 32) : BitVec 32 :=
  if b = 0#32 then 0xFFFFFFFF#32
  else if a = 0x80000000#32 ∧ b = 0xFFFFFFFF#32 then 0x80000000#32
  else BitVec.ofInt 32 (a.toInt.tdiv b.toInt)

/-- 32-bit unsigned division (R411). -/
def divU32 (a b : BitVec 32) : BitVec 32 := if b = 0#32 then 0xFFFFFFFF#32 else BitVec.ofNat 32 (a.toNat / b.toNat)

/-- 32-bit signed remainder (R412). -/
def remS32 (a b : BitVec 32) : BitVec 32 :=
  if b = 0#32 then a
  else if a = 0x80000000#32 ∧ b = 0xFFFFFFFF#32 then 0#32
  else BitVec.ofInt 32 (a.toInt.tmod b.toInt)

/-- 32-bit unsigned remainder (R413). -/
def remU32 (a b : BitVec 32) : BitVec 32 := if b = 0#32 then a else BitVec.ofNat 32 (a.toNat % b.toNat)

/-- `mul` (R401). -/
def execMul (rd rs1 rs2 : Reg) (s : State) : Outcome :=
  .next (s.retireX 4 rd (s.readX rs1 * s.readX rs2))

/-- `mulh` (R402). -/
def execMulh (rd rs1 rs2 : Reg) (s : State) : Outcome :=
  .next (s.retireX 4 rd (highHalf ((s.readX rs1).toInt * (s.readX rs2).toInt)))

/-- `mulhsu` (R403). -/
def execMulhsu (rd rs1 rs2 : Reg) (s : State) : Outcome :=
  .next (s.retireX 4 rd (highHalf ((s.readX rs1).toInt * ((s.readX rs2).toNat : Int))))

/-- `mulhu` (R404). -/
def execMulhu (rd rs1 rs2 : Reg) (s : State) : Outcome :=
  .next (s.retireX 4 rd (highHalf (((s.readX rs1).toNat : Int) * ((s.readX rs2).toNat : Int))))

/-- `div` (R405). -/
def execDiv (rd rs1 rs2 : Reg) (s : State) : Outcome :=
  .next (s.retireX 4 rd (divS (s.readX rs1) (s.readX rs2)))

/-- `divu` (R406). -/
def execDivu (rd rs1 rs2 : Reg) (s : State) : Outcome :=
  .next (s.retireX 4 rd (divU (s.readX rs1) (s.readX rs2)))

/-- `rem` (R407). -/
def execRem (rd rs1 rs2 : Reg) (s : State) : Outcome :=
  .next (s.retireX 4 rd (remS (s.readX rs1) (s.readX rs2)))

/-- `remu` (R408). -/
def execRemu (rd rs1 rs2 : Reg) (s : State) : Outcome :=
  .next (s.retireX 4 rd (remU (s.readX rs1) (s.readX rs2)))

/-- `mulw` (R409). -/
def execMulw (rd rs1 rs2 : Reg) (s : State) : Outcome :=
  .next (s.retireX 4 rd (sext (low32 (s.readX rs1) * low32 (s.readX rs2))))

/-- `divw` (R410). -/
def execDivw (rd rs1 rs2 : Reg) (s : State) : Outcome :=
  .next (s.retireX 4 rd (sext (divS32 (low32 (s.readX rs1)) (low32 (s.readX rs2)))))

/-- `divuw` (R411). -/
def execDivuw (rd rs1 rs2 : Reg) (s : State) : Outcome :=
  .next (s.retireX 4 rd (sext (divU32 (low32 (s.readX rs1)) (low32 (s.readX rs2)))))

/-- `remw` (R412). -/
def execRemw (rd rs1 rs2 : Reg) (s : State) : Outcome :=
  .next (s.retireX 4 rd (sext (remS32 (low32 (s.readX rs1)) (low32 (s.readX rs2)))))

/-- `remuw` (R413). -/
def execRemuw (rd rs1 rs2 : Reg) (s : State) : Outcome :=
  .next (s.retireX 4 rd (sext (remU32 (low32 (s.readX rs1)) (low32 (s.readX rs2)))))

end Sys2Proof.Machine
end

