-- ==== Sys2Proof/WellFormed.lean ====
section
/-! DEFINITION. Which terms of `Instr` stand for an encoding: the constraints of the opcode table's rows and the
low zero bits of scaled immediates (30_encoding R266, R268, R270; 47_compressed). -/

namespace Sys2Proof

/-- `v` is a multiple of 2 (of 4, of 8, of 16): its low bits are zero. -/
def lowZero {n : Nat} (k : Nat) (v : BitVec n) : Bool := v.toNat % 2 ^ k == 0

/-- Branch and jump offsets are even (R266, R268, R270). -/
def Instr.offsetOk : Instr → Bool
  | .jal _ off => lowZero 1 off
  | .beq _ _ off => lowZero 1 off
  | .bne _ _ off => lowZero 1 off
  | .blt _ _ off => lowZero 1 off
  | .bge _ _ off => lowZero 1 off
  | .bltu _ _ off => lowZero 1 off
  | .bgeu _ _ off => lowZero 1 off
  | .cJ off => lowZero 1 off
  | .cBeqz _ off => lowZero 1 off
  | .cBnez _ off => lowZero 1 off
  | _ => true

/-- Compressed load and store displacements and stack adjustments are scaled (R270). -/
def Instr.scaleOk : Instr → Bool
  | .cAddi4spn _ v => lowZero 2 v
  | .cLw _ _ v => lowZero 2 v
  | .cSw _ _ v => lowZero 2 v
  | .cLd _ _ v => lowZero 3 v
  | .cSd _ _ v => lowZero 3 v
  | .cAddi16sp v => lowZero 4 v
  | .cLwsp _ v => lowZero 2 v
  | .cSwsp _ v => lowZero 2 v
  | .cLdsp _ v => lowZero 3 v
  | .cSdsp _ v => lowZero 3 v
  | _ => true

/-- The rows' constraints on immediates that may not be zero (R581, R591, R592). -/
def Instr.nonzeroOk : Instr → Bool
  | .cAddi4spn _ v => v != 0#10
  | .cAddi16sp v => v != 0#10
  | .cLui _ v => v != 0#6
  | _ => true

/-- The rows' constraints on register fields (R588, R589, R592, R606 to R609, R611, R612). -/
def Instr.regOk : Instr → Bool
  | .cAddi rd _ => rd != 0#5
  | .cAddiw rd _ => rd != 0#5
  | .cLui rd _ => rd != 2#5
  | .cLwsp rd _ => rd != 0#5
  | .cLdsp rd _ => rd != 0#5
  | .cJr rs1 => rs1 != 0#5
  | .cMv _ rs2 => rs2 != 0#5
  | .cJalr rs1 => rs1 != 0#5
  | .cAdd _ rs2 => rs2 != 0#5
  | _ => true

/-- The terms that an encoding of the opcode table stands for. -/
def Instr.wellFormed (i : Instr) : Bool := i.offsetOk && i.scaleOk && i.nonzeroOk && i.regOk

end Sys2Proof
end

