-- ==== Sys2Proof/Decode.lean ====
section
/-! DEFINITION. Decoding, total on any bytes and rejecting by name, and the encoder written from the same tables
(30_encoding, 47_compressed). The decoder here reads every row of the opcode table; `decode` then refuses the rows of
extensions the configuration does not enable (R290). -/

namespace Sys2Proof

/-- Why bytes do not decode. -/
inductive DecodeError where
  /-- fewer bytes than the instruction needs -/
  | truncated
  /-- no row of the opcode table matches (R280) -/
  | illegalEncoding
  /-- the matching row's extension is not enabled (R280, R290) -/
  | disabledExtension (e : Ext)
  deriving DecidableEq, Repr

/-! ## Encoding formats (R252 to R256, R260) -/

def encR (f7 : BitVec 7) (rs2 rs1 : Reg) (f3 : BitVec 3) (rd : Reg) (op : BitVec 7) : Bits :=
  f7 ++ rs2 ++ rs1 ++ f3 ++ rd ++ op

def encI (imm : BitVec 12) (rs1 : Reg) (f3 : BitVec 3) (rd : Reg) (op : BitVec 7) : Bits :=
  imm ++ rs1 ++ f3 ++ rd ++ op

/-- Shift-immediate with a 6-bit amount (R253). -/
def encSh (f6 : BitVec 6) (shamt : BitVec 6) (rs1 : Reg) (f3 : BitVec 3) (rd : Reg) (op : BitVec 7) : Bits :=
  f6 ++ shamt ++ rs1 ++ f3 ++ rd ++ op

def encS (imm : BitVec 12) (rs2 rs1 : Reg) (f3 : BitVec 3) (op : BitVec 7) : Bits :=
  imm.extractLsb' 5 7 ++ rs2 ++ rs1 ++ f3 ++ imm.extractLsb' 0 5 ++ op

def encB (off : BitVec 13) (rs2 rs1 : Reg) (f3 : BitVec 3) (op : BitVec 7) : Bits :=
  off.extractLsb' 12 1 ++ off.extractLsb' 5 6 ++ rs2 ++ rs1 ++ f3 ++ off.extractLsb' 1 4 ++ off.extractLsb' 11 1 ++ op

def encU (imm : BitVec 20) (rd : Reg) (op : BitVec 7) : Bits := imm ++ rd ++ op

def encJ (off : BitVec 21) (rd : Reg) (op : BitVec 7) : Bits :=
  off.extractLsb' 20 1 ++ off.extractLsb' 1 10 ++ off.extractLsb' 11 1 ++ off.extractLsb' 12 8 ++ rd ++ op

/-- A compressed halfword, zero-extended to the width of `Bits` (R304). -/
def half (h : BitVec 16) : Bits := 0#16 ++ h

/-- CI format: immediate bit 5 in inst[12], bits 4:0 in inst[6:2] (R260, R270). -/
def encCI (f3 : BitVec 3) (imm : BitVec 6) (rd : Reg) (op : BitVec 2) : BitVec 16 :=
  f3 ++ imm.extractLsb' 5 1 ++ rd ++ imm.extractLsb' 0 5 ++ op

/-- CB format of the shifts and `c.andi` (R261). -/
def encCBi (f2 : BitVec 2) (imm : BitVec 6) (rd : CReg) : BitVec 16 :=
  0b100#3 ++ imm.extractLsb' 5 1 ++ f2 ++ rd ++ imm.extractLsb' 0 5 ++ 0b01#2

/-- CA format (R260). -/
def encCA (f6 : BitVec 6) (rd : CReg) (f2 : BitVec 2) (rs2 : CReg) : BitVec 16 :=
  f6 ++ rd ++ f2 ++ rs2 ++ 0b01#2

/-- CR format (R260). -/
def encCR (f4 : BitVec 4) (rd rs2 : Reg) : BitVec 16 := f4 ++ rd ++ rs2 ++ 0b10#2

/-- CL and CS formats with a word displacement: uimm[5:3], rs1', uimm[2], uimm[6], rd' (R270). -/
def encCLw (f3 : BitVec 3) (uimm : BitVec 7) (rs1 r : CReg) : BitVec 16 :=
  f3 ++ uimm.extractLsb' 3 3 ++ rs1 ++ uimm.extractLsb' 2 1 ++ uimm.extractLsb' 6 1 ++ r ++ 0b00#2

/-- CL and CS formats with a doubleword displacement: uimm[5:3], rs1', uimm[7:6], rd' (R270). -/
def encCLd (f3 : BitVec 3) (uimm : BitVec 8) (rs1 r : CReg) : BitVec 16 :=
  f3 ++ uimm.extractLsb' 3 3 ++ rs1 ++ uimm.extractLsb' 6 2 ++ r ++ 0b00#2

/-- CB format of the branches: offset[8], offset[4:3], rs1', offset[7:6], offset[2:1], offset[5] (R270). -/
def encCB (f3 : BitVec 3) (off : BitVec 9) (rs1 : CReg) : BitVec 16 :=
  f3 ++ off.extractLsb' 8 1 ++ off.extractLsb' 3 2 ++ rs1 ++ off.extractLsb' 6 2 ++ off.extractLsb' 1 2
    ++ off.extractLsb' 5 1 ++ 0b01#2

/-- CJ format: offset[11|4|9:8|10|6|7|3:1|5] (R270). -/
def encCJ (f3 : BitVec 3) (off : BitVec 12) : BitVec 16 :=
  f3 ++ off.extractLsb' 11 1 ++ off.extractLsb' 4 1 ++ off.extractLsb' 8 2 ++ off.extractLsb' 10 1
    ++ off.extractLsb' 6 1 ++ off.extractLsb' 7 1 ++ off.extractLsb' 1 3 ++ off.extractLsb' 5 1 ++ 0b01#2

/-- The bits of an instruction: the row's match value with its operand fields in place. -/
def Instr.bits : Instr → Bits
  | .lui rd imm => encU imm rd 0x37#7
  | .auipc rd imm => encU imm rd 0x17#7
  | .jal rd off => encJ off rd 0x6F#7
  | .jalr rd rs1 imm => encI imm rs1 0#3 rd 0x67#7
  | .beq rs1 rs2 off => encB off rs2 rs1 0#3 0x63#7
  | .bne rs1 rs2 off => encB off rs2 rs1 1#3 0x63#7
  | .blt rs1 rs2 off => encB off rs2 rs1 4#3 0x63#7
  | .bge rs1 rs2 off => encB off rs2 rs1 5#3 0x63#7
  | .bltu rs1 rs2 off => encB off rs2 rs1 6#3 0x63#7
  | .bgeu rs1 rs2 off => encB off rs2 rs1 7#3 0x63#7
  | .lb rd rs1 imm => encI imm rs1 0#3 rd 0x03#7
  | .lh rd rs1 imm => encI imm rs1 1#3 rd 0x03#7
  | .lw rd rs1 imm => encI imm rs1 2#3 rd 0x03#7
  | .ld rd rs1 imm => encI imm rs1 3#3 rd 0x03#7
  | .lbu rd rs1 imm => encI imm rs1 4#3 rd 0x03#7
  | .lhu rd rs1 imm => encI imm rs1 5#3 rd 0x03#7
  | .lwu rd rs1 imm => encI imm rs1 6#3 rd 0x03#7
  | .sb rs1 rs2 imm => encS imm rs2 rs1 0#3 0x23#7
  | .sh rs1 rs2 imm => encS imm rs2 rs1 1#3 0x23#7
  | .sw rs1 rs2 imm => encS imm rs2 rs1 2#3 0x23#7
  | .sd rs1 rs2 imm => encS imm rs2 rs1 3#3 0x23#7
  | .addi rd rs1 imm => encI imm rs1 0#3 rd 0x13#7
  | .slti rd rs1 imm => encI imm rs1 2#3 rd 0x13#7
  | .sltiu rd rs1 imm => encI imm rs1 3#3 rd 0x13#7
  | .xori rd rs1 imm => encI imm rs1 4#3 rd 0x13#7
  | .ori rd rs1 imm => encI imm rs1 6#3 rd 0x13#7
  | .andi rd rs1 imm => encI imm rs1 7#3 rd 0x13#7
  | .slli rd rs1 shamt => encSh 0#6 shamt rs1 1#3 rd 0x13#7
  | .srli rd rs1 shamt => encSh 0#6 shamt rs1 5#3 rd 0x13#7
  | .srai rd rs1 shamt => encSh 0b010000#6 shamt rs1 5#3 rd 0x13#7
  | .add rd rs1 rs2 => encR 0#7 rs2 rs1 0#3 rd 0x33#7
  | .sub rd rs1 rs2 => encR 0b0100000#7 rs2 rs1 0#3 rd 0x33#7
  | .sll rd rs1 rs2 => encR 0#7 rs2 rs1 1#3 rd 0x33#7
  | .slt rd rs1 rs2 => encR 0#7 rs2 rs1 2#3 rd 0x33#7
  | .sltu rd rs1 rs2 => encR 0#7 rs2 rs1 3#3 rd 0x33#7
  | .xor rd rs1 rs2 => encR 0#7 rs2 rs1 4#3 rd 0x33#7
  | .srl rd rs1 rs2 => encR 0#7 rs2 rs1 5#3 rd 0x33#7
  | .sra rd rs1 rs2 => encR 0b0100000#7 rs2 rs1 5#3 rd 0x33#7
  | .or rd rs1 rs2 => encR 0#7 rs2 rs1 6#3 rd 0x33#7
  | .and rd rs1 rs2 => encR 0#7 rs2 rs1 7#3 rd 0x33#7
  | .fence fm pred succ => encI (fm ++ pred ++ succ) 0#5 0#3 0#5 0x0F#7
  | .fenceI => encI 0#12 0#5 1#3 0#5 0x0F#7
  | .ecall => 0x00000073#32
  | .ebreak => 0x00100073#32
  | .addiw rd rs1 imm => encI imm rs1 0#3 rd 0x1B#7
  | .slliw rd rs1 shamt => encR 0#7 shamt rs1 1#3 rd 0x1B#7
  | .srliw rd rs1 shamt => encR 0#7 shamt rs1 5#3 rd 0x1B#7
  | .sraiw rd rs1 shamt => encR 0b0100000#7 shamt rs1 5#3 rd 0x1B#7
  | .addw rd rs1 rs2 => encR 0#7 rs2 rs1 0#3 rd 0x3B#7
  | .subw rd rs1 rs2 => encR 0b0100000#7 rs2 rs1 0#3 rd 0x3B#7
  | .sllw rd rs1 rs2 => encR 0#7 rs2 rs1 1#3 rd 0x3B#7
  | .srlw rd rs1 rs2 => encR 0#7 rs2 rs1 5#3 rd 0x3B#7
  | .sraw rd rs1 rs2 => encR 0b0100000#7 rs2 rs1 5#3 rd 0x3B#7
  | .mul rd rs1 rs2 => encR 1#7 rs2 rs1 0#3 rd 0x33#7
  | .mulh rd rs1 rs2 => encR 1#7 rs2 rs1 1#3 rd 0x33#7
  | .mulhsu rd rs1 rs2 => encR 1#7 rs2 rs1 2#3 rd 0x33#7
  | .mulhu rd rs1 rs2 => encR 1#7 rs2 rs1 3#3 rd 0x33#7
  | .div rd rs1 rs2 => encR 1#7 rs2 rs1 4#3 rd 0x33#7
  | .divu rd rs1 rs2 => encR 1#7 rs2 rs1 5#3 rd 0x33#7
  | .rem rd rs1 rs2 => encR 1#7 rs2 rs1 6#3 rd 0x33#7
  | .remu rd rs1 rs2 => encR 1#7 rs2 rs1 7#3 rd 0x33#7
  | .mulw rd rs1 rs2 => encR 1#7 rs2 rs1 0#3 rd 0x3B#7
  | .divw rd rs1 rs2 => encR 1#7 rs2 rs1 4#3 rd 0x3B#7
  | .divuw rd rs1 rs2 => encR 1#7 rs2 rs1 5#3 rd 0x3B#7
  | .remw rd rs1 rs2 => encR 1#7 rs2 rs1 6#3 rd 0x3B#7
  | .remuw rd rs1 rs2 => encR 1#7 rs2 rs1 7#3 rd 0x3B#7
  | .csrrw rd rs1 csr => encI csr rs1 1#3 rd 0x73#7
  | .csrrs rd rs1 csr => encI csr rs1 2#3 rd 0x73#7
  | .csrrc rd rs1 csr => encI csr rs1 3#3 rd 0x73#7
  | .csrrwi rd uimm csr => encI csr uimm 5#3 rd 0x73#7
  | .csrrsi rd uimm csr => encI csr uimm 6#3 rd 0x73#7
  | .csrrci rd uimm csr => encI csr uimm 7#3 rd 0x73#7
  | .mret => 0x30200073#32
  | .wfi => 0x10500073#32
  | .sret => 0x10200073#32
  | .sfenceVma rs1 rs2 => encR 0b0001001#7 rs2 rs1 0#3 0#5 0x73#7
  | .dret => 0x7B200073#32
  | .cAddi4spn rd v =>
    half (0b000#3 ++ v.extractLsb' 4 2 ++ v.extractLsb' 6 4 ++ v.extractLsb' 2 1 ++ v.extractLsb' 3 1 ++ rd ++ 0b00#2)
  | .cLw rd rs1 v => half (encCLw 0b010#3 v rs1 rd)
  | .cLd rd rs1 v => half (encCLd 0b011#3 v rs1 rd)
  | .cSw rs1 rs2 v => half (encCLw 0b110#3 v rs1 rs2)
  | .cSd rs1 rs2 v => half (encCLd 0b111#3 v rs1 rs2)
  | .cNop imm => half (encCI 0b000#3 imm 0#5 0b01#2)
  | .cAddi rd imm => half (encCI 0b000#3 imm rd 0b01#2)
  | .cAddiw rd imm => half (encCI 0b001#3 imm rd 0b01#2)
  | .cLi rd imm => half (encCI 0b010#3 imm rd 0b01#2)
  | .cAddi16sp v =>
    half (0b011#3 ++ v.extractLsb' 9 1 ++ 2#5 ++ v.extractLsb' 4 1 ++ v.extractLsb' 6 1 ++ v.extractLsb' 7 2
      ++ v.extractLsb' 5 1 ++ 0b01#2)
  | .cLui rd v => half (encCI 0b011#3 v rd 0b01#2)
  | .cSrli rd shamt => half (encCBi 0b00#2 shamt rd)
  | .cSrai rd shamt => half (encCBi 0b01#2 shamt rd)
  | .cAndi rd imm => half (encCBi 0b10#2 imm rd)
  | .cSub rd rs2 => half (encCA 0b100011#6 rd 0b00#2 rs2)
  | .cXor rd rs2 => half (encCA 0b100011#6 rd 0b01#2 rs2)
  | .cOr rd rs2 => half (encCA 0b100011#6 rd 0b10#2 rs2)
  | .cAnd rd rs2 => half (encCA 0b100011#6 rd 0b11#2 rs2)
  | .cSubw rd rs2 => half (encCA 0b100111#6 rd 0b00#2 rs2)
  | .cAddw rd rs2 => half (encCA 0b100111#6 rd 0b01#2 rs2)
  | .cJ off => half (encCJ 0b101#3 off)
  | .cBeqz rs1 off => half (encCB 0b110#3 off rs1)
  | .cBnez rs1 off => half (encCB 0b111#3 off rs1)
  | .cSlli rd shamt => half (encCI 0b000#3 shamt rd 0b10#2)
  | .cLwsp rd v =>
    half (0b010#3 ++ v.extractLsb' 5 1 ++ rd ++ v.extractLsb' 2 3 ++ v.extractLsb' 6 2 ++ 0b10#2)
  | .cLdsp rd v =>
    half (0b011#3 ++ v.extractLsb' 5 1 ++ rd ++ v.extractLsb' 3 2 ++ v.extractLsb' 6 3 ++ 0b10#2)
  | .cJr rs1 => half (encCR 0b1000#4 rs1 0#5)
  | .cMv rd rs2 => half (encCR 0b1000#4 rd rs2)
  | .cEbreak => half 0x9002#16
  | .cJalr rs1 => half (encCR 0b1001#4 rs1 0#5)
  | .cAdd rd rs2 => half (encCR 0b1001#4 rd rs2)
  | .cSwsp rs2 v => half (0b110#3 ++ v.extractLsb' 2 4 ++ v.extractLsb' 6 2 ++ rs2 ++ 0b10#2)
  | .cSdsp rs2 v => half (0b111#3 ++ v.extractLsb' 3 3 ++ v.extractLsb' 6 3 ++ rs2 ++ 0b10#2)

/-! ## The decoder -/

/-- LOAD, 0x03 (R257). -/
def decLoad (f3 : BitVec 3) (rd rs1 : Reg) (imm : BitVec 12) : Option Instr :=
  if f3 = 0#3 then some (.lb rd rs1 imm)
  else if f3 = 1#3 then some (.lh rd rs1 imm)
  else if f3 = 2#3 then some (.lw rd rs1 imm)
  else if f3 = 3#3 then some (.ld rd rs1 imm)
  else if f3 = 4#3 then some (.lbu rd rs1 imm)
  else if f3 = 5#3 then some (.lhu rd rs1 imm)
  else if f3 = 6#3 then some (.lwu rd rs1 imm)
  else none

/-- STORE, 0x23. -/
def decStore (f3 : BitVec 3) (rs1 rs2 : Reg) (imm : BitVec 12) : Option Instr :=
  if f3 = 0#3 then some (.sb rs1 rs2 imm)
  else if f3 = 1#3 then some (.sh rs1 rs2 imm)
  else if f3 = 2#3 then some (.sw rs1 rs2 imm)
  else if f3 = 3#3 then some (.sd rs1 rs2 imm)
  else none

/-- BRANCH, 0x63. -/
def decBranch (f3 : BitVec 3) (rs1 rs2 : Reg) (off : BitVec 13) : Option Instr :=
  if f3 = 0#3 then some (.beq rs1 rs2 off)
  else if f3 = 1#3 then some (.bne rs1 rs2 off)
  else if f3 = 4#3 then some (.blt rs1 rs2 off)
  else if f3 = 5#3 then some (.bge rs1 rs2 off)
  else if f3 = 6#3 then some (.bltu rs1 rs2 off)
  else if f3 = 7#3 then some (.bgeu rs1 rs2 off)
  else none

/-- OP-IMM, 0x13; the shifts check `inst[31:26]` (R253, R280). -/
def decOpImm (f3 : BitVec 3) (rd rs1 : Reg) (imm : BitVec 12) : Option Instr :=
  if f3 = 0#3 then some (.addi rd rs1 imm)
  else if f3 = 2#3 then some (.slti rd rs1 imm)
  else if f3 = 3#3 then some (.sltiu rd rs1 imm)
  else if f3 = 4#3 then some (.xori rd rs1 imm)
  else if f3 = 6#3 then some (.ori rd rs1 imm)
  else if f3 = 7#3 then some (.andi rd rs1 imm)
  else if f3 = 1#3 then
    if imm.extractLsb' 6 6 = 0#6 then some (.slli rd rs1 (imm.extractLsb' 0 6)) else none
  else if imm.extractLsb' 6 6 = 0#6 then some (.srli rd rs1 (imm.extractLsb' 0 6))
  else if imm.extractLsb' 6 6 = 0b010000#6 then some (.srai rd rs1 (imm.extractLsb' 0 6))
  else none

/-- OP-IMM-32, 0x1B; the shifts check `inst[31:25]` (R253, R280). -/
def decOpImm32 (f3 : BitVec 3) (rd rs1 : Reg) (imm : BitVec 12) : Option Instr :=
  if f3 = 0#3 then some (.addiw rd rs1 imm)
  else if f3 = 1#3 then
    if imm.extractLsb' 5 7 = 0#7 then some (.slliw rd rs1 (imm.extractLsb' 0 5)) else none
  else if f3 = 5#3 then
    if imm.extractLsb' 5 7 = 0#7 then some (.srliw rd rs1 (imm.extractLsb' 0 5))
    else if imm.extractLsb' 5 7 = 0b0100000#7 then some (.sraiw rd rs1 (imm.extractLsb' 0 5))
    else none
  else none

/-- OP, 0x33: by funct7 then funct3 (R257, R280). -/
def decOp (f7 : BitVec 7) (f3 : BitVec 3) (rd rs1 rs2 : Reg) : Option Instr :=
  if f7 = 0#7 then
    if f3 = 0#3 then some (.add rd rs1 rs2)
    else if f3 = 1#3 then some (.sll rd rs1 rs2)
    else if f3 = 2#3 then some (.slt rd rs1 rs2)
    else if f3 = 3#3 then some (.sltu rd rs1 rs2)
    else if f3 = 4#3 then some (.xor rd rs1 rs2)
    else if f3 = 5#3 then some (.srl rd rs1 rs2)
    else if f3 = 6#3 then some (.or rd rs1 rs2)
    else some (.and rd rs1 rs2)
  else if f7 = 0b0100000#7 then
    if f3 = 0#3 then some (.sub rd rs1 rs2)
    else if f3 = 5#3 then some (.sra rd rs1 rs2)
    else none
  else if f7 = 1#7 then
    if f3 = 0#3 then some (.mul rd rs1 rs2)
    else if f3 = 1#3 then some (.mulh rd rs1 rs2)
    else if f3 = 2#3 then some (.mulhsu rd rs1 rs2)
    else if f3 = 3#3 then some (.mulhu rd rs1 rs2)
    else if f3 = 4#3 then some (.div rd rs1 rs2)
    else if f3 = 5#3 then some (.divu rd rs1 rs2)
    else if f3 = 6#3 then some (.rem rd rs1 rs2)
    else some (.remu rd rs1 rs2)
  else none

/-- OP-32, 0x3B. -/
def decOp32 (f7 : BitVec 7) (f3 : BitVec 3) (rd rs1 rs2 : Reg) : Option Instr :=
  if f7 = 0#7 then
    if f3 = 0#3 then some (.addw rd rs1 rs2)
    else if f3 = 1#3 then some (.sllw rd rs1 rs2)
    else if f3 = 5#3 then some (.srlw rd rs1 rs2)
    else none
  else if f7 = 0b0100000#7 then
    if f3 = 0#3 then some (.subw rd rs1 rs2)
    else if f3 = 5#3 then some (.sraw rd rs1 rs2)
    else none
  else if f7 = 1#7 then
    if f3 = 0#3 then some (.mulw rd rs1 rs2)
    else if f3 = 4#3 then some (.divw rd rs1 rs2)
    else if f3 = 5#3 then some (.divuw rd rs1 rs2)
    else if f3 = 6#3 then some (.remw rd rs1 rs2)
    else if f3 = 7#3 then some (.remuw rd rs1 rs2)
    else none
  else none

/-- MISC-MEM, 0x0F; the ignored fields of R283 are not looked at. -/
def decMiscMem (f3 : BitVec 3) (imm : BitVec 12) : Option Instr :=
  if f3 = 0#3 then some (.fence (imm.extractLsb' 8 4) (imm.extractLsb' 4 4) (imm.extractLsb' 0 4))
  else if f3 = 1#3 then some .fenceI
  else none

/-- SYSTEM, 0x73: the fixed words of funct3 0, `sfence.vma`, and the CSR forms (R254, R256, R257). -/
def decSystem (w : Bits) (f3 : BitVec 3) (rd rs1 : Reg) (csr : CsrNum) : Option Instr :=
  if f3 = 0#3 then
    if w = 0x00000073#32 then some .ecall
    else if w = 0x00100073#32 then some .ebreak
    else if w = 0x30200073#32 then some .mret
    else if w = 0x10500073#32 then some .wfi
    else if w = 0x10200073#32 then some .sret
    else if w = 0x7B200073#32 then some .dret
    else if csr.extractLsb' 5 7 = 0b0001001#7 ∧ rd = 0#5 then some (.sfenceVma rs1 (csr.extractLsb' 0 5))
    else none
  else if f3 = 1#3 then some (.csrrw rd rs1 csr)
  else if f3 = 2#3 then some (.csrrs rd rs1 csr)
  else if f3 = 3#3 then some (.csrrc rd rs1 csr)
  else if f3 = 5#3 then some (.csrrwi rd rs1 csr)
  else if f3 = 6#3 then some (.csrrsi rd rs1 csr)
  else if f3 = 7#3 then some (.csrrci rd rs1 csr)
  else none

/-- A 32-bit word, by major opcode (R257). -/
def decode32 (w : Bits) : Option Instr :=
  let op := w.extractLsb' 0 7
  let rd := w.extractLsb' 7 5
  let f3 := w.extractLsb' 12 3
  let rs1 := w.extractLsb' 15 5
  let rs2 := w.extractLsb' 20 5
  let f7 := w.extractLsb' 25 7
  let immI := w.extractLsb' 20 12
  if op = 0x37#7 then some (.lui rd (w.extractLsb' 12 20))
  else if op = 0x17#7 then some (.auipc rd (w.extractLsb' 12 20))
  else if op = 0x6F#7 then
    some (.jal rd (w.extractLsb' 31 1 ++ w.extractLsb' 12 8 ++ w.extractLsb' 20 1 ++ w.extractLsb' 21 10 ++ 0#1))
  else if op = 0x67#7 then if f3 = 0#3 then some (.jalr rd rs1 immI) else none
  else if op = 0x63#7 then
    decBranch f3 rs1 rs2 (w.extractLsb' 31 1 ++ w.extractLsb' 7 1 ++ w.extractLsb' 25 6 ++ w.extractLsb' 8 4 ++ 0#1)
  else if op = 0x03#7 then decLoad f3 rd rs1 immI
  else if op = 0x23#7 then decStore f3 rs1 rs2 (f7 ++ rd)
  else if op = 0x13#7 then decOpImm f3 rd rs1 immI
  else if op = 0x1B#7 then decOpImm32 f3 rd rs1 immI
  else if op = 0x33#7 then decOp f7 f3 rd rs1 rs2
  else if op = 0x3B#7 then decOp32 f7 f3 rd rs1 rs2
  else if op = 0x0F#7 then decMiscMem f3 immI
  else if op = 0x73#7 then decSystem w f3 rd rs1 immI
  else none

/-- An instruction whose row carries a constraint: the halfword is illegal when it fails (R280, R580). -/
def guardRow (i : Instr) : Option Instr := if i.wellFormed then some i else none

/-- Quadrant 0 (R272). -/
def decodeQ0 (h : BitVec 16) : Option Instr :=
  let f3 := h.extractLsb' 13 3
  let r2 := h.extractLsb' 2 3
  let r1 := h.extractLsb' 7 3
  let uw : BitVec 7 := h.extractLsb' 5 1 ++ h.extractLsb' 10 3 ++ h.extractLsb' 6 1 ++ 0#2
  let ud : BitVec 8 := h.extractLsb' 5 2 ++ h.extractLsb' 10 3 ++ 0#3
  if f3 = 0#3 then
    guardRow (.cAddi4spn r2
      (h.extractLsb' 7 4 ++ h.extractLsb' 11 2 ++ h.extractLsb' 5 1 ++ h.extractLsb' 6 1 ++ 0#2))
  else if f3 = 2#3 then some (.cLw r2 r1 uw)
  else if f3 = 3#3 then some (.cLd r2 r1 ud)
  else if f3 = 6#3 then some (.cSw r1 r2 uw)
  else if f3 = 7#3 then some (.cSd r1 r2 ud)
  else none

/-- The arithmetic rows of quadrant 1, funct3 100 (R273). -/
def decodeQ1Arith (h : BitVec 16) (imm : BitVec 6) : Option Instr :=
  let rd := h.extractLsb' 7 3
  let rs2 := h.extractLsb' 2 3
  let f2 := h.extractLsb' 10 2
  let sel := h.extractLsb' 12 1 ++ h.extractLsb' 5 2
  if f2 = 0#2 then some (.cSrli rd imm)
  else if f2 = 1#2 then some (.cSrai rd imm)
  else if f2 = 2#2 then some (.cAndi rd imm)
  else if sel = 0#3 then some (.cSub rd rs2)
  else if sel = 1#3 then some (.cXor rd rs2)
  else if sel = 2#3 then some (.cOr rd rs2)
  else if sel = 3#3 then some (.cAnd rd rs2)
  else if sel = 4#3 then some (.cSubw rd rs2)
  else if sel = 5#3 then some (.cAddw rd rs2)
  else none

/-- Quadrant 1 (R273). -/
def decodeQ1 (h : BitVec 16) : Option Instr :=
  let f3 := h.extractLsb' 13 3
  let rd := h.extractLsb' 7 5
  let imm : BitVec 6 := h.extractLsb' 12 1 ++ h.extractLsb' 2 5
  let offB : BitVec 9 :=
    h.extractLsb' 12 1 ++ h.extractLsb' 5 2 ++ h.extractLsb' 2 1 ++ h.extractLsb' 10 2 ++ h.extractLsb' 3 2 ++ 0#1
  if f3 = 0#3 then if rd = 0#5 then some (.cNop imm) else some (.cAddi rd imm)
  else if f3 = 1#3 then guardRow (.cAddiw rd imm)
  else if f3 = 2#3 then some (.cLi rd imm)
  else if f3 = 3#3 then
    if rd = 2#5 then
      guardRow (.cAddi16sp
        (h.extractLsb' 12 1 ++ h.extractLsb' 3 2 ++ h.extractLsb' 5 1 ++ h.extractLsb' 2 1 ++ h.extractLsb' 6 1 ++ 0#4))
    else guardRow (.cLui rd imm)
  else if f3 = 4#3 then decodeQ1Arith h imm
  else if f3 = 5#3 then
    some (.cJ (h.extractLsb' 12 1 ++ h.extractLsb' 8 1 ++ h.extractLsb' 9 2 ++ h.extractLsb' 6 1 ++ h.extractLsb' 7 1
      ++ h.extractLsb' 2 1 ++ h.extractLsb' 11 1 ++ h.extractLsb' 3 3 ++ 0#1))
  else if f3 = 6#3 then some (.cBeqz (h.extractLsb' 7 3) offB)
  else some (.cBnez (h.extractLsb' 7 3) offB)

/-- Quadrant 2, funct3 100 (R274). -/
def decodeQ2Reg (b12 : BitVec 1) (r1 r2 : Reg) : Option Instr :=
  if b12 = 0#1 then
    if r2 = 0#5 then guardRow (.cJr r1) else some (.cMv r1 r2)
  else if r2 = 0#5 then
    if r1 = 0#5 then some .cEbreak else some (.cJalr r1)
  else some (.cAdd r1 r2)

/-- Quadrant 2 (R274). -/
def decodeQ2 (h : BitVec 16) : Option Instr :=
  let f3 := h.extractLsb' 13 3
  let r1 := h.extractLsb' 7 5
  let r2 := h.extractLsb' 2 5
  if f3 = 0#3 then some (.cSlli r1 (h.extractLsb' 12 1 ++ h.extractLsb' 2 5))
  else if f3 = 2#3 then
    guardRow (.cLwsp r1 (h.extractLsb' 2 2 ++ h.extractLsb' 12 1 ++ h.extractLsb' 4 3 ++ 0#2))
  else if f3 = 3#3 then
    guardRow (.cLdsp r1 (h.extractLsb' 2 3 ++ h.extractLsb' 12 1 ++ h.extractLsb' 5 2 ++ 0#3))
  else if f3 = 4#3 then decodeQ2Reg (h.extractLsb' 12 1) r1 r2
  else if f3 = 6#3 then some (.cSwsp r2 (h.extractLsb' 7 2 ++ h.extractLsb' 9 4 ++ 0#2))
  else if f3 = 7#3 then some (.cSdsp r2 (h.extractLsb' 7 3 ++ h.extractLsb' 10 3 ++ 0#3))
  else none

/-- A compressed halfword, by quadrant (R260). -/
def decode16 (h : BitVec 16) : Option Instr :=
  let q := h.extractLsb' 0 2
  if q = 0#2 then decodeQ0 h
  else if q = 1#2 then decodeQ1 h
  else if q = 2#2 then decodeQ2 h
  else none

/-- The instruction the fetched bits stand for, whatever extensions are enabled; the length is told by the low two
bits (R250). -/
def decodeBits (w : Bits) : Option Instr :=
  if w.extractLsb' 0 2 = 3#2 then decode32 w else decode16 (w.extractLsb' 0 16)

/-- The extension of each row of the opcode table (its "ext"; Zicsr and Zifencei are always present, R3). -/
def Instr.ext : Instr → Ext
  | .mul _ _ _ | .mulh _ _ _ | .mulhsu _ _ _ | .mulhu _ _ _ | .div _ _ _ | .divu _ _ _ | .rem _ _ _ | .remu _ _ _
  | .mulw _ _ _ | .divw _ _ _ | .divuw _ _ _ | .remw _ _ _ | .remuw _ _ _ => .m
  | .sret | .sfenceVma _ _ => .s
  | .cAddi4spn _ _ | .cLw _ _ _ | .cLd _ _ _ | .cSw _ _ _ | .cSd _ _ _ | .cNop _ | .cAddi _ _ | .cAddiw _ _
  | .cLi _ _ | .cAddi16sp _ | .cLui _ _ | .cSrli _ _ | .cSrai _ _ | .cAndi _ _ | .cSub _ _ | .cXor _ _ | .cOr _ _
  | .cAnd _ _ | .cSubw _ _ | .cAddw _ _ | .cJ _ | .cBeqz _ _ | .cBnez _ _ | .cSlli _ _ | .cLwsp _ _ | .cLdsp _ _
  | .cJr _ | .cMv _ _ | .cEbreak | .cJalr _ | .cAdd _ _ | .cSwsp _ _ | .cSdsp _ _ => .c
  | _ => .i

/-- The width of an instruction in bytes (R250, R293). -/
def Instr.len (i : Instr) : Nat := if i.ext = .c then 2 else 4

/-- `decode(bits, config)` (R290, R304). -/
def decodeWith (c : Machine.Config) (w : Bits) : Except DecodeError Instr :=
  match decodeBits w with
  | none => .error .illegalEncoding
  | some i => if c.hasExt i.ext then .ok i else .error (.disabledExtension i.ext)

/-- The 32-bit instruction a compressed one expands to, with its operand fields (R293, R581 to R614); any other
instruction is its own. A primed field names `x(8 + r')`, and the `sp` forms name `x2` (R262). -/
def Instr.expansion : Instr → Instr
  | .cAddi4spn rd u => .addi (0b01#2 ++ rd) 2#5 (u.setWidth 12)
  | .cLw rd rs1 u => .lw (0b01#2 ++ rd) (0b01#2 ++ rs1) (u.setWidth 12)
  | .cLd rd rs1 u => .ld (0b01#2 ++ rd) (0b01#2 ++ rs1) (u.setWidth 12)
  | .cSw rs1 rs2 u => .sw (0b01#2 ++ rs1) (0b01#2 ++ rs2) (u.setWidth 12)
  | .cSd rs1 rs2 u => .sd (0b01#2 ++ rs1) (0b01#2 ++ rs2) (u.setWidth 12)
  | .cNop imm => .addi 0#5 0#5 (imm.signExtend 12)
  | .cAddi rd imm => .addi rd rd (imm.signExtend 12)
  | .cAddiw rd imm => .addiw rd rd (imm.signExtend 12)
  | .cLi rd imm => .addi rd 0#5 (imm.signExtend 12)
  | .cAddi16sp imm => .addi 2#5 2#5 (imm.signExtend 12)
  | .cLui rd imm => .lui rd (imm.signExtend 20)
  | .cSrli rd shamt => .srli (0b01#2 ++ rd) (0b01#2 ++ rd) shamt
  | .cSrai rd shamt => .srai (0b01#2 ++ rd) (0b01#2 ++ rd) shamt
  | .cAndi rd imm => .andi (0b01#2 ++ rd) (0b01#2 ++ rd) (imm.signExtend 12)
  | .cSub rd rs2 => .sub (0b01#2 ++ rd) (0b01#2 ++ rd) (0b01#2 ++ rs2)
  | .cXor rd rs2 => .xor (0b01#2 ++ rd) (0b01#2 ++ rd) (0b01#2 ++ rs2)
  | .cOr rd rs2 => .or (0b01#2 ++ rd) (0b01#2 ++ rd) (0b01#2 ++ rs2)
  | .cAnd rd rs2 => .and (0b01#2 ++ rd) (0b01#2 ++ rd) (0b01#2 ++ rs2)
  | .cSubw rd rs2 => .subw (0b01#2 ++ rd) (0b01#2 ++ rd) (0b01#2 ++ rs2)
  | .cAddw rd rs2 => .addw (0b01#2 ++ rd) (0b01#2 ++ rd) (0b01#2 ++ rs2)
  | .cJ off => .jal 0#5 (off.signExtend 21)
  | .cBeqz rs1 off => .beq (0b01#2 ++ rs1) 0#5 (off.signExtend 13)
  | .cBnez rs1 off => .bne (0b01#2 ++ rs1) 0#5 (off.signExtend 13)
  | .cSlli rd shamt => .slli rd rd shamt
  | .cLwsp rd u => .lw rd 2#5 (u.setWidth 12)
  | .cLdsp rd u => .ld rd 2#5 (u.setWidth 12)
  | .cJr rs1 => .jalr 0#5 rs1 0#12
  | .cMv rd rs2 => .add rd 0#5 rs2
  | .cEbreak => .ebreak
  | .cJalr rs1 => .jalr 1#5 rs1 0#12
  | .cAdd rd rs2 => .add rd rd rs2
  | .cSwsp rs2 u => .sw 2#5 rs2 (u.setWidth 12)
  | .cSdsp rs2 u => .sd 2#5 rs2 (u.setWidth 12)
  | i => i

/-- The DecodedInstruction of R294: the operation with its operand fields, for a compressed instruction those of its
expansion (R293); the width; the originating pc; and the fetched bits. -/
structure DecodedInstruction where
  op : Instr
  width : Nat
  addr : Word
  bits : Bits
  deriving DecidableEq, Repr

/-- The DecodedInstruction of fetched bits at a pc (R293, R294, R304). The machine dispatches on the decoded row itself,
whose meaning is its expansion's with the differences of R580. -/
def decodedInstruction (c : Machine.Config) (w : Bits) (pc : Word) : Except DecodeError DecodedInstruction :=
  match decodeWith c w with
  | .ok i => .ok { op := i.expansion, width := i.len, addr := pc, bits := w }
  | .error e => .error e

/-- The first bytes of a byte sequence as an instruction, with the bytes that follow it, every extension enabled.
Bytes are little-endian (R208). -/
def decode (bytes : List Byte) : Except DecodeError (Instr × List Byte) :=
  match bytes with
  | b0 :: b1 :: rest =>
    if b0.extractLsb' 0 2 = 3#2 then
      match rest with
      | b2 :: b3 :: rest' =>
        match decodeBits (b3 ++ b2 ++ b1 ++ b0) with
        | some i => .ok (i, rest')
        | none => .error .illegalEncoding
      | _ => .error .truncated
    else
      match decodeBits (half (b1 ++ b0)) with
      | some i => .ok (i, rest)
      | none => .error .illegalEncoding
  | _ => .error .truncated

/-- The bytes of an instruction, little-endian: two for a compressed one, else four. -/
def encode (i : Instr) : List Byte :=
  let w := i.bits
  if i.ext = .c then [w.extractLsb' 0 8, w.extractLsb' 8 8]
  else [w.extractLsb' 0 8, w.extractLsb' 8 8, w.extractLsb' 16 8, w.extractLsb' 24 8]

/-- The instruction the decoder reads from an opcode-table word: its bytes in memory order, given to `decode`. -/
def decodeTableWord (nbits w : Nat) : Option Instr :=
  let v : Bits := BitVec.ofNat 32 (w % 2 ^ nbits)
  match decode [v.extractLsb' 0 8, v.extractLsb' 8 8, v.extractLsb' 16 8, v.extractLsb' 24 8] with
  | .ok (i, _) => some i
  | .error _ => none

end Sys2Proof
end

