-- ==== Sys2Proof/Machine/System.lean ====
section
/-! DEFINITION. System and privileged instructions (46_system R550 to R558). -/

namespace Sys2Proof.Machine

/-- The environment-call exception of a mode (R550). -/
def Priv.ecall : Priv → Exc
  | .u => .ecallU
  | .s => .ecallS
  | .m => .ecallM

/-- `dcsr.ebreakm`, `ebreaks` or `ebreaku`, by the current mode (R551, R782). -/
def State.ebreakDebug (s : State) : Bool :=
  match s.priv with
  | .m => s.csr.dcsr.getLsbD 15
  | .s => s.csr.dcsr.getLsbD 13
  | .u => s.csr.dcsr.getLsbD 12

/-- A breakpoint instruction (R551). -/
def State.ebreakBody (s : State) : Handled :=
  if s.ebreakDebug then .debug .ebreak s else .raise .breakpoint s.pc s

/-- `mret` (R552). -/
def State.mretBody (s : State) : Handled :=
  if s.priv = .m then .ok s.returnM else s.illegal Instr.mret.bits

/-- `sret` (R555). -/
def State.sretBody (s : State) : Handled :=
  if s.priv = .u ∨ (s.priv = .s ∧ s.status mstatusTSR) then s.illegal Instr.sret.bits else .ok s.returnS

/-- `wfi` (R553): never waits. -/
def State.wfiBody (s : State) : Handled :=
  if s.priv ≠ .m ∧ s.cfg.extU ∧ s.status mstatusTW then s.illegal Instr.wfi.bits else .ok s

/-- The request of `sfence.vma` (R556). -/
def State.flushOf (s : State) (rs1 rs2 : Reg) : Flush where
  vaddr := if rs1 = 0#5 then none else some (s.readX rs1)
  asid := if rs2 = 0#5 then none else some (s.readX rs2)

/-- `sfence.vma` (R556): the request goes to the translation collaborator (log 5). -/
def State.sfenceBody (s : State) (rs1 rs2 : Reg) : Handled :=
  if s.priv = .u ∨ (s.priv = .s ∧ s.status mstatusTVM) then s.illegal (Instr.sfenceVma rs1 rs2).bits
  else .ok { s with flushes := s.flushOf rs1 rs2 :: s.flushes }

/-- `ecall` (R550). -/
def execEcall (s : State) : Outcome :=
  .next ((s.startInstr 4).finish (.raise s.priv.ecall 0#64 (s.startInstr 4)))

/-- `ebreak` (R551). -/
def execEbreak (s : State) : Outcome := .next ((s.startInstr 4).finish (s.startInstr 4).ebreakBody)

/-- `mret` (R552). -/
def execMret (s : State) : Outcome := .next ((s.startInstr 4).finish (s.startInstr 4).mretBody)

/-- `wfi` (R553). -/
def execWfi (s : State) : Outcome := .next ((s.startInstr 4).finish (s.startInstr 4).wfiBody)

/-- `sret` (R555). -/
def execSret (s : State) : Outcome := .next ((s.startInstr 4).finish (s.startInstr 4).sretBody)

/-- `sfence.vma` (R556). -/
def execSfenceVma (rs1 rs2 : Reg) (s : State) : Outcome :=
  .next ((s.startInstr 4).finish ((s.startInstr 4).sfenceBody rs1 rs2))

/-- `dret` (R557): illegal wherever an instruction executes. -/
def execDret (s : State) : Outcome :=
  .next ((s.startInstr 4).finish ((s.startInstr 4).illegal Instr.dret.bits))

end Sys2Proof.Machine
end

