-- ==== Sys2Proof/Machine/Compressed.lean ====
section
/-! DEFINITION. The compressed instructions (47_compressed R580 to R614): each has the effect of its expansion, with
width 2 for the next pc and for a link. -/

namespace Sys2Proof.Machine

/-- The stack pointer, which the `sp` forms name implicitly. -/
def sp : Reg := 2#5

/-- `c.addi4spn` (R581). -/
def execCAddi4spn (rd : CReg) (nzuimm : BitVec 10) (s : State) : Outcome :=
  .next (s.retireX 2 (CReg.reg rd) (s.readX sp + zext nzuimm))

/-- `c.lw` (R582). -/
def execCLw (rd rs1 : CReg) (uimm : BitVec 7) (s : State) : Outcome :=
  s.load 2 4 .sign (CReg.reg rd) (CReg.reg rs1) (zext uimm)

/-- `c.ld` (R583). -/
def execCLd (rd rs1 : CReg) (uimm : BitVec 8) (s : State) : Outcome :=
  s.load 2 8 .zero (CReg.reg rd) (CReg.reg rs1) (zext uimm)

/-- `c.sw` (R584). -/
def execCSw (rs1 rs2 : CReg) (uimm : BitVec 7) (s : State) : Outcome :=
  s.store 2 4 (CReg.reg rs1) (CReg.reg rs2) (zext uimm)

/-- `c.sd` (R585). -/
def execCSd (rs1 rs2 : CReg) (uimm : BitVec 8) (s : State) : Outcome :=
  s.store 2 8 (CReg.reg rs1) (CReg.reg rs2) (zext uimm)

/-- `c.nop` (R587). -/
def execCNop (_imm : BitVec 6) (s : State) : Outcome :=
  .next (s.retireNop 2)

/-- `c.addi` (R588). -/
def execCAddi (rd : Reg) (imm : BitVec 6) (s : State) : Outcome :=
  .next (s.retireX 2 rd (s.readX rd + sext imm))

/-- `c.addiw` (R589). -/
def execCAddiw (rd : Reg) (imm : BitVec 6) (s : State) : Outcome :=
  .next (s.retireX 2 rd (sext (low32 (s.readX rd) + low32 (sext imm))))

/-- `c.li` (R590). -/
def execCLi (rd : Reg) (imm : BitVec 6) (s : State) : Outcome :=
  .next (s.retireX 2 rd (sext imm))

/-- `c.addi16sp` (R591). -/
def execCAddi16sp (nzimm : BitVec 10) (s : State) : Outcome :=
  .next (s.retireX 2 sp (s.readX sp + sext nzimm))

/-- `c.lui` (R592). -/
def execCLui (rd : Reg) (nzimm : BitVec 6) (s : State) : Outcome :=
  .next (s.retireX 2 rd (immCLui nzimm))

/-- `c.srli` (R593). -/
def execCSrli (rd : CReg) (shamt : BitVec 6) (s : State) : Outcome :=
  .next (s.retireX 2 (CReg.reg rd) (s.readX (CReg.reg rd) >>> shamt.toNat))

/-- `c.srai` (R594). -/
def execCSrai (rd : CReg) (shamt : BitVec 6) (s : State) : Outcome :=
  .next (s.retireX 2 (CReg.reg rd) ((s.readX (CReg.reg rd)).sshiftRight shamt.toNat))

/-- `c.andi` (R595). -/
def execCAndi (rd : CReg) (imm : BitVec 6) (s : State) : Outcome :=
  .next (s.retireX 2 (CReg.reg rd) (s.readX (CReg.reg rd) &&& sext imm))

/-- `c.sub` (R596). -/
def execCSub (rd rs2 : CReg) (s : State) : Outcome :=
  .next (s.retireX 2 (CReg.reg rd) (s.readX (CReg.reg rd) - s.readX (CReg.reg rs2)))

/-- `c.xor` (R597). -/
def execCXor (rd rs2 : CReg) (s : State) : Outcome :=
  .next (s.retireX 2 (CReg.reg rd) (s.readX (CReg.reg rd) ^^^ s.readX (CReg.reg rs2)))

/-- `c.or` (R598). -/
def execCOr (rd rs2 : CReg) (s : State) : Outcome :=
  .next (s.retireX 2 (CReg.reg rd) (s.readX (CReg.reg rd) ||| s.readX (CReg.reg rs2)))

/-- `c.and` (R599). -/
def execCAnd (rd rs2 : CReg) (s : State) : Outcome :=
  .next (s.retireX 2 (CReg.reg rd) (s.readX (CReg.reg rd) &&& s.readX (CReg.reg rs2)))

/-- `c.subw` (R600). -/
def execCSubw (rd rs2 : CReg) (s : State) : Outcome :=
  .next (s.retireX 2 (CReg.reg rd) (sext (low32 (s.readX (CReg.reg rd)) - low32 (s.readX (CReg.reg rs2)))))

/-- `c.addw` (R601). -/
def execCAddw (rd rs2 : CReg) (s : State) : Outcome :=
  .next (s.retireX 2 (CReg.reg rd) (sext (low32 (s.readX (CReg.reg rd)) + low32 (s.readX (CReg.reg rs2)))))

/-- `c.j` (R602). -/
def execCJ (off : BitVec 12) (s : State) : Outcome :=
  s.jump 2 0#5 (s.pc + sext off)

/-- `c.beqz` (R603). -/
def execCBeqz (rs1 : CReg) (off : BitVec 9) (s : State) : Outcome :=
  s.branch 2 .eq (CReg.reg rs1) 0#5 (sext off)

/-- `c.bnez` (R604). -/
def execCBnez (rs1 : CReg) (off : BitVec 9) (s : State) : Outcome :=
  s.branch 2 .ne (CReg.reg rs1) 0#5 (sext off)

/-- `c.slli` (R605). -/
def execCSlli (rd : Reg) (shamt : BitVec 6) (s : State) : Outcome :=
  .next (s.retireX 2 rd (s.readX rd <<< shamt.toNat))

/-- `c.lwsp` (R606). -/
def execCLwsp (rd : Reg) (uimm : BitVec 8) (s : State) : Outcome :=
  s.load 2 4 .sign rd sp (zext uimm)

/-- `c.ldsp` (R607). -/
def execCLdsp (rd : Reg) (uimm : BitVec 9) (s : State) : Outcome :=
  s.load 2 8 .zero rd sp (zext uimm)

/-- `c.jr` (R608). -/
def execCJr (rs1 : Reg) (s : State) : Outcome :=
  s.jump 2 0#5 (s.jalrTarget rs1 0#64)

/-- `c.mv` (R609). -/
def execCMv (rd rs2 : Reg) (s : State) : Outcome :=
  .next (s.retireX 2 rd (s.readX rs2))

/-- `c.ebreak` (R610). -/
def execCEbreak (s : State) : Outcome :=
  .next ((s.startInstr 2).finish (s.startInstr 2).ebreakBody)

/-- `c.jalr` (R611). -/
def execCJalr (rs1 : Reg) (s : State) : Outcome :=
  s.jump 2 1#5 (s.jalrTarget rs1 0#64)

/-- `c.add` (R612). -/
def execCAdd (rd rs2 : Reg) (s : State) : Outcome :=
  .next (s.retireX 2 rd (s.readX rd + s.readX rs2))

/-- `c.swsp` (R613). -/
def execCSwsp (rs2 : Reg) (uimm : BitVec 8) (s : State) : Outcome :=
  s.store 2 4 sp rs2 (zext uimm)

/-- `c.sdsp` (R614). -/
def execCSdsp (rs2 : Reg) (uimm : BitVec 9) (s : State) : Outcome :=
  s.store 2 8 sp rs2 (zext uimm)

end Sys2Proof.Machine
end

