-- ==== Sys2Proof/Machine/CsrInstr.lean ====
section
/-! DEFINITION. The CSR instructions (45_csr_access R500 to R508). -/

namespace Sys2Proof.Machine

/-- What a CSR instruction makes of the old value: the new one, or no write (R501). -/
inductive CsrOp where
  | write | set | clear
  deriving DecidableEq, Repr

/-- The value written (R503 to R508). -/
def CsrOp.apply (op : CsrOp) (old m : Word) : Word :=
  match op with
  | .write => m
  | .set => old ||| m
  | .clear => old &&& ~~~m

/-- A CSR instruction on the CSR numbered `n`, with operand `m`; `writes` as R501 says. The old value goes to `rd`. -/
def State.csrBody (s : State) (op : CsrOp) (rd : Reg) (n : CsrNum) (m : Word) (writes : Bool) (bits : Bits) : Handled :=
  match s.csrAccess n writes with
  | none => s.illegal bits
  | some r =>
    .ok ((if writes then s.csrWrite r (op.apply (s.csrRead r) m) else s).writeX rd (s.csrRead r))

/-- A CSR instruction. -/
def State.csrInstr (s : State) (op : CsrOp) (rd : Reg) (n : CsrNum) (m : Word) (writes : Bool) (bits : Bits) :
    Outcome :=
  .next ((s.startInstr 4).finish ((s.startInstr 4).csrBody op rd n m writes bits))

/-- `csrrw` (R503). -/
def execCsrrw (rd rs1 : Reg) (csr : CsrNum) (s : State) : Outcome :=
  s.csrInstr .write rd csr (s.readX rs1) true (Instr.csrrw rd rs1 csr).bits

/-- `csrrwi` (R506). -/
def execCsrrwi (rd : Reg) (uimm : BitVec 5) (csr : CsrNum) (s : State) : Outcome :=
  s.csrInstr .write rd csr (zext uimm) true (Instr.csrrwi rd uimm csr).bits

/-- `csrrs` (R504). -/
def execCsrrs (rd rs1 : Reg) (csr : CsrNum) (s : State) : Outcome :=
  s.csrInstr .set rd csr (s.readX rs1) (rs1 != 0#5) (Instr.csrrs rd rs1 csr).bits

/-- `csrrsi` (R507). -/
def execCsrrsi (rd : Reg) (uimm : BitVec 5) (csr : CsrNum) (s : State) : Outcome :=
  s.csrInstr .set rd csr (zext uimm) (uimm != 0#5) (Instr.csrrsi rd uimm csr).bits

/-- `csrrc` (R505). -/
def execCsrrc (rd rs1 : Reg) (csr : CsrNum) (s : State) : Outcome :=
  s.csrInstr .clear rd csr (s.readX rs1) (rs1 != 0#5) (Instr.csrrc rd rs1 csr).bits

/-- `csrrci` (R508). -/
def execCsrrci (rd : Reg) (uimm : BitVec 5) (csr : CsrNum) (s : State) : Outcome :=
  s.csrInstr .clear rd csr (zext uimm) (uimm != 0#5) (Instr.csrrci rd uimm csr).bits

end Sys2Proof.Machine
end

