-- ==== Sys2Proof/Machine/Run.lean ====
section
/-! DEFINITION. One step of a hart: the step-start branches, `executeOne`, the end of the step and the stop conditions
(40_step_protocol R302, R303, R315, R320). -/

namespace Sys2Proof.Machine

/-! ## The end of a step (R315) -/

/-- The `mcycle` increment (R720). -/
def State.countCycle (s : State) : State :=
  if s.csr.mcountinhibit.getLsbD 0 || s.ctx.csrWritten.contains 0xB00#12 then s
  else { s with csr := { s.csr with mcycle := s.csr.mcycle + 1#64 } }

/-- The `minstret` increment of a retired instruction (R721). -/
def State.countInstret (s : State) : State :=
  if s.csr.mcountinhibit.getLsbD 2 || s.ctx.csrWritten.contains 0xB02#12 then s
  else { s with csr := { s.csr with minstret := s.csr.minstret + 1#64 } }

/-- Whether a test holds of the record of a retired instruction (log 7). -/
def StepTest.holds (x : Ctx) : StepTest → Bool
  | .bits mask value => x.bits &&& mask == value
  | .transfers => x.nextPc != x.startPc + (if x.bits.extractLsb' 0 2 = 3#2 then 4#64 else 2#64)
  | .writesX => x.wroteX.isSome
  | .loads => x.load.isSome
  | .stores => x.store.isSome
  | .changesCsr => !x.csrOld.isEmpty
  | .inMode p => x.startPriv == p
  | .negation t => !StepTest.holds x t
  | .both t u => StepTest.holds x t && StepTest.holds x u

/-- The parameter `HPM_EVENT` on an event other than 0 (log 7). -/
def HpmEvent.fires (h : HpmEvent) (event : Word) (x : Ctx) : Bool :=
  match h with
  | .tests l => l.any fun p => p.1 == event && p.2.holds x
  | .external k => Config.hpmExternal k event x

/-- `HPM_EVENT(event, ctx)`; event 0 counts nothing (R82, R722). -/
def Config.hpmFires (c : Config) (event : Word) (x : Ctx) : Bool := event != 0#64 && c.hpmEvent.fires event x

/-- Whether `mhpmcounter(3 + i)` counts this instruction (R722). -/
def State.hpmCounts (s : State) (i : Fin 29) : Bool :=
  decide (i.val < s.cfg.numHpm) && s.cfg.hpmFires s.csr.mhpmevent[i.val] s.ctx
    && !s.csr.mcountinhibit.getLsbD (3 + i.val)
    && !s.ctx.csrWritten.contains (Csr.num (.mhpmcounter i))

/-- `mhpmcounter(3 + i)` after the instruction (R722). -/
def State.hpmAfter (s : State) (i : Fin 29) : Word :=
  if s.hpmCounts i then s.csr.mhpmcounter[i.val] + 1#64 else s.csr.mhpmcounter[i.val]

/-- The performance-counter increments of a retired instruction (R722). -/
def State.countHpm (s : State) : State :=
  if s.cfg.hpmEvent = .tests [] then s
  else { s with csr := { s.csr with mhpmcounter := Vector.ofFn s.hpmAfter } }

/-- The instruction-count triggers of a retired instruction (R770). -/
def State.countTriggers (s : State) : State :=
  let r := icountScan s.ctx 0 s.trig
  let t := { s with trig := r.2 }
  match arbitrate r.1 with
  | some trip => t.triggerAction trip t.pc
  | none => t

/-- Debug entry at the end of a single step (R784). -/
def State.endSingleStep (s : State) : State :=
  if s.stepPending && !s.debugMode then s.enterDebug .step s.pc else s

/-- `endStep(ctx)` (R315); the instrumentation counts of item 6 are kept where an event is taken (R698). -/
def State.endStep (s : State) : State :=
  let t := s.countCycle
  let u := if t.ctx.retired then t.countInstret.countHpm.countTriggers else t
  let v := u.endSingleStep
  if v.ctx.attempted then { v with execCount := v.execCount + 1 } else v

/-! ## Stop conditions (R320) -/

/-- The first stop condition that holds after the step. -/
def State.stopOf (s : State) : Option StopReason :=
  match s.ctx.toHost with
  | some v => some (.toHost v)
  | none =>
    match if s.cfg.stopOnException then s.ctx.exceptionTaken else none with
    | some c => some (.exception c)
    | none =>
      if (match s.cfg.instructionLimit with | some l => decide (l ≤ s.execCount) | none => false) then some .limit
      else if s.cfg.stopAddress = some s.pc then some .stopAddress
      else none

/-- `stopCheck(ctx)` (R320). -/
def State.stopCheck (s : State) : State :=
  match s.stopOf with
  | some r => { s with done := true, stopReason := some r }
  | none => s

/-! ## `executeOne` (R303) -/

/-- Phase (b): the instruction of a what-if step is the given word (R816). -/
def State.fetchInstr (s : State) : Fetched :=
  match s.ctx.fetchOverride with
  | some w => .ok w (if w.extractLsb' 0 2 = 3#2 then 4 else 2)
  | none => s.fetch s.pc

/-- Phase (d) and what follows it, on fetched bits. -/
def State.decodeAndRun (s : State) (bits : Bits) : Outcome :=
  match decodeWith s.cfg bits with
  | .error _ => .next (s.takeTrap (.exception .illegal (s.cfg.illegalValue bits) s.pc))
  | .ok i => exec i s

/-- Phases (c) to (g), on fetched bits. -/
def State.runFetched (s : State) (bits : Bits) : Outcome :=
  let t := { s with tick := s.tick + 1, ctx := { s.ctx with bits := bits } }
  let r := t.triggerEval .execOpcode (zext bits) .before t.pc
  match arbitrate r.1 with
  | some trip => .next (r.2.triggerAction trip t.pc)
  | none => r.2.decodeAndRun bits

/-- `executeOne(ctx)` (R303). -/
def State.executeOne (s : State) : Outcome :=
  let r := s.triggerEval .execAddr s.pc .before s.pc
  match arbitrate r.1 with
  | some trip => .next (r.2.triggerAction trip s.pc)
  | none =>
    match r.2.fetchInstr with
    | .fault e tval => .next (r.2.takeTrap (.exception e tval s.pc))
    | .ok bits _ => r.2.runFetched bits

/-! ## The step (R302) -/

/-- Sample the inputs and open a new step context. -/
def State.beginStep (s : State) : State := { s.sampleInputs with tick := s.tick + 1, ctx := {} }

/-- The branches of a step after sampling: debug halt request, NMI, interrupt, instruction (R302, R688). -/
def State.branchStep (s : State) : Outcome :=
  if s.debugHaltPending then .next (s.enterDebug .haltReq s.pc)
  else if s.nmiPending then .next s.takeNmi
  else
    match s.selectInterrupt with
    | some i => .next (s.takeTrap (.interrupt i))
    | none => { s with ctx := { s.ctx with attempted := true } }.executeOne

/-- The end of a step; the step context is dropped. -/
def State.closeStep (s : State) : State := { s.endStep.stopCheck with ctx := {} }

/-- The whole step of a hart that runs. -/
def State.runStep (s : State) : Outcome :=
  match s.beginStep.branchStep with
  | .next t => .next t.closeStep
  | .fault f => .fault f
  | .refused r => .refused r

/-- `step()` (R302) on an admitted configuration. -/
def State.stepAdmitted (s : State) : Outcome :=
  if s.done then .next s
  else if s.debugMode then .next s
  else if s.cfg.stopAddress = some s.pc then .next { s with done := true, stopReason := some .stopAddress }
  else s.runStep

/-- A step of any hart: one whose configuration is not admitted does not run (R5, R7, R11; log 13). -/
def State.stepAny (s : State) : Outcome :=
  if s.cfg.admitted then s.stepAdmitted else .fault .configurationNotAdmitted

/-- Write an instruction word of `nbits` bits, zero above, at the program counter (R208). -/
def State.placeWord (s : State) (nbits w : Nat) : State :=
  let put (m : Memory) (p : Word × Byte) : Memory := m.write p.1.toNat p.2
  { s with mem := ((addrRange s.pc 4).zip (leBytes 4 (BitVec.ofNat 64 (w % 2 ^ nbits)))).foldl put s.mem }

end Sys2Proof.Machine
end

