-- ==== Sys2Proof/Machine/Step.lean ====
section
/-! DEFINITION. One step of the machine, and how an instruction is placed where the next step fetches it. -/

namespace Sys2Proof.Machine

/-- One call of `step()` (40_step_protocol R302). -/
def step (s : State) : Host.Outcome State Fault Refusal := s.stepAny

/-- `s` with an instruction word stored at the program counter, where the next step fetches it. It stands for the
loader that places a program in memory (00_scope R10; log 11). -/
def State.withFetchWord (s : State) (nbits w : Nat) : State := s.placeWord nbits w

end Sys2Proof.Machine
end

