-- ==== Sys2Proof/Machine/HostCalls.lean ====
section
/-! DEFINITION. What the host does between steps (40_step_protocol R301, R311 to R313, R345; 45_csr_access R520, R521;
60_exceptions R684, R701, R711; 61_debug_triggers R783; 62_rollback_queue R801 to R819; 70_reset_and_hazards R831).
A call that can fail answers `none`, and then nothing has changed. -/

namespace Sys2Proof.Machine

/-! ## The result of a step (R301) -/

inductive StepResult where
  | goOn
  | stop (r : Option StopReason)
  | halted
  deriving DecidableEq, Repr

/-- What `step()` returns, from the states before and after it. -/
def stepResult (before after : State) : StepResult :=
  if before.done then .stop before.stopReason
  else if before.debugMode then .halted
  else if after.done then .stop after.stopReason
  else .goOn

/-- `runUntil()` (R345), bounded by `fuel` steps: `none` when the fuel ends first. -/
def State.runUntil : Nat → State → Option (StepResult × State)
  | 0, _ => none
  | fuel + 1, s =>
    match step s with
    | .next t =>
      match stepResult s t with
      | .goOn => State.runUntil fuel t
      | r => some (r, t)
    | .fault _ => none
    | .refused _ => none

/-! ## Registers (R312) -/

/-- `peekX(i)`. -/
def State.peekX (s : State) (i : Nat) : Option Word := if i ≤ 31 then some (s.readX (BitVec.ofNat 5 i)) else none

/-- `pokeX(i, v)`. -/
def State.pokeX (s : State) (i : Nat) (v : Word) : Option State :=
  if i ≤ 31 then some (s.setX (BitVec.ofNat 5 i) v) else none

/-- `peekPc()`. -/
def State.peekPc (s : State) : Word := s.pc

/-- `pokePc(v)`: the low bit, or two bits, are cleared. -/
def State.pokePc (s : State) (v : Word) : State := { s with pc := v &&& s.cfg.epcMask }

/-! ## CSRs (R520, R521) -/

/-- `peekCsr(n)`. -/
def State.peekCsr (s : State) (n : CsrNum) : Option Word := (s.csrOf n).map s.csrRead

/-- Whether a poke fails: it would chain triggers in a way the even-odd restriction forbids (R758). -/
def State.pokeFails (s : State) (r : Csr) (v : Word) : Bool :=
  r == .tdata1 && trigType v == 2#4 && chainPokeFails s.cfg s.csr.tselect.toNat (v.getLsbD 11)

/-- `pokeCsr(n, v)`. -/
def State.pokeCsr (s : State) (n : CsrNum) (v : Word) : Option State :=
  match s.csrOf n with
  | none => none
  | some r => if s.pokeFails r v then none else some (s.csrStore true r v)

/-- An indexed name, as `pmpaddr0`. -/
def indexedName (stem : String) (i : Nat) : String := stem ++ toString i

/-- The name of a CSR (R69). -/
def Csr.name : Csr → String
  | .sstatus => "sstatus"
  | .sie => "sie"
  | .stvec => "stvec"
  | .scounteren => "scounteren"
  | .sscratch => "sscratch"
  | .sepc => "sepc"
  | .scause => "scause"
  | .stval => "stval"
  | .sip => "sip"
  | .satp => "satp"
  | .mstatus => "mstatus"
  | .misa => "misa"
  | .medeleg => "medeleg"
  | .mideleg => "mideleg"
  | .mie => "mie"
  | .mtvec => "mtvec"
  | .mcounteren => "mcounteren"
  | .mcountinhibit => "mcountinhibit"
  | .mhpmevent i => indexedName "mhpmevent" (i.val + 3)
  | .mscratch => "mscratch"
  | .mepc => "mepc"
  | .mcause => "mcause"
  | .mtval => "mtval"
  | .mip => "mip"
  | .pmpcfg0 => "pmpcfg0"
  | .pmpcfg2 => "pmpcfg2"
  | .pmpaddr i => indexedName "pmpaddr" i.val
  | .tselect => "tselect"
  | .tdata1 => "tdata1"
  | .tdata2 => "tdata2"
  | .tdata3 => "tdata3"
  | .tinfo => "tinfo"
  | .dcsr => "dcsr"
  | .dpc => "dpc"
  | .dscratch0 => "dscratch0"
  | .dscratch1 => "dscratch1"
  | .mscause => "mscause"
  | .mcycle => "mcycle"
  | .minstret => "minstret"
  | .mhpmcounter i => indexedName "mhpmcounter" (i.val + 3)
  | .mdeau => "mdeau"
  | .meivt => "meivt"
  | .cycle => "cycle"
  | .time => "time"
  | .instret => "instret"
  | .hpmcounter i => indexedName "hpmcounter" (i.val + 3)
  | .mvendorid => "mvendorid"
  | .marchid => "marchid"
  | .mimpid => "mimpid"
  | .mhartid => "mhartid"
  | .mdseac => "mdseac"
  | .meihap => "meihap"

/-- The CSRs of R69 below 0x7A0 that are not indexed. -/
def Csr.plainLow : List Csr :=
  [.sstatus, .sie, .stvec, .scounteren, .sscratch, .sepc, .scause, .stval, .sip, .satp, .mstatus, .misa, .medeleg,
    .mideleg, .mie, .mtvec, .mcounteren, .mcountinhibit, .mscratch, .mepc, .mcause, .mtval, .mip, .pmpcfg0, .pmpcfg2]

/-- The CSRs of R69 from 0x7A0 up that are not indexed. -/
def Csr.plainHigh : List Csr :=
  [.tselect, .tdata1, .tdata2, .tdata3, .tinfo, .dcsr, .dpc, .dscratch0, .dscratch1, .mscause, .mcycle, .minstret,
    .mdeau, .meivt, .cycle, .time, .instret, .mvendorid, .marchid, .mimpid, .mhartid, .mdseac, .meihap]

/-- The indexed CSRs of R69. -/
def Csr.indexed : List Csr :=
  (List.finRange 29).flatMap (fun i => [Csr.mhpmevent i, Csr.mhpmcounter i, Csr.hpmcounter i])
    ++ (List.finRange 16).map Csr.pmpaddr

/-- Every CSR of R69. -/
def Csr.all : List Csr := Csr.plainLow ++ Csr.plainHigh ++ Csr.indexed

/-- The implemented CSR of a name (R521). -/
def State.csrNamed (s : State) (name : String) : Option Csr :=
  match Csr.all.find? fun r => r.name == name with
  | some r => if r.present s.cfg then some r else none
  | none => none

/-- `peekCsr` by name. -/
def State.peekCsrNamed (s : State) (name : String) : Option Word := (s.csrNamed name).map s.csrRead

/-- `pokeCsr` by name. -/
def State.pokeCsrNamed (s : State) (name : String) (v : Word) : Option State :=
  match s.csrNamed name with
  | some r => s.pokeCsr r.num v
  | none => none

/-! ## Physical memory (R313): through the memory collaborator, so never the CLINT (log 20) -/

/-- The sizes of the memory contract (R202). -/
def hostSize (n : Nat) : Bool := n == 1 || n == 2 || n == 4 || n == 8

/-- Whether the memory collaborator performs a host access of `n` bytes. -/
def State.hostMemOk (s : State) (acc : Acc) (a : Word) (n : Nat) : Bool :=
  hostSize n && (addrRange a n).all (s.byteBacked acc)

/-- `peekMem(a, n)`: the value, and the state (a device may have been touched). -/
def State.peekMem (s : State) (a : Word) (n : Nat) : Option (Word × State) :=
  if s.hostMemOk .load a n then some (leValue ((addrRange a n).map s.physByte), s.touch (addrRange a n)) else none

/-- `pokeMem(a, n, v)`. -/
def State.pokeMem (s : State) (a : Word) (n : Nat) (v : Word) : Option State :=
  if s.hostMemOk .store a n then some ((s.touch (addrRange a n)).setPhysBytes (addrRange a n) (leBytes n v)) else none

/-! ## Requests -/

/-- `requestNmi(cause)` (R684). -/
def State.requestNmi (s : State) (cause : Word) : State := { s with nmiPending := true, nmiCause := cause }

/-- `requestDebugHalt()` (R701): no effect in debug mode. -/
def State.requestDebugHalt (s : State) : State := if s.debugMode then s else { s with debugHaltPending := true }

/-- `resume()` (R783). -/
def State.resume (s : State) : Option State :=
  if s.debugMode then
    some { s with
      pc := s.csr.dpc
      priv := modeOf (s.csr.dcsr.extractLsb' 0 2)
      debugMode := false
      stepPending := s.csr.dcsr.getLsbD 2 }
  else none

/-- `setTime(t)` (R711). -/
def State.setTime (s : State) (t : Word) : State := { s with clint := { s.clint with mtime := t } }

/-- `setLoadTag(tag)` (R801). -/
def State.setLoadTag (s : State) (tag : Word) : State := { s with loadTag := tag }

/-! ## Rollback (R806 to R809) -/

/-- Whether a load entry is the one the host names. -/
def LoadEntry.named (addr tag : Word) (e : LoadEntry) : Bool := e.addr == addr && e.tag == tag

/-- How many load entries match. -/
def State.loadMatches (s : State) (addr tag : Word) : Nat := (s.loadQueue.filter (LoadEntry.named addr tag)).length

/-- How many store entries match. -/
def State.storeMatches (s : State) (addr : Word) : Nat := (s.storeQueue.filter fun e => e.addr == addr).length

/-- Capture an imprecise fault's address unless locked, and make its NMI pending (R806, R808). -/
def State.imprecise (s : State) (addr cause : Word) : State :=
  { s with
    csr := { s.csr with mdseac := if s.mdseacLocked then s.csr.mdseac else addr }
    mdseacLocked := true
    nmiPending := true
    nmiCause := cause }

/-- `applyLoadException(address, tag)` (R806): the match count, and the state. -/
def State.applyLoadException (s : State) (addr tag : Word) : Nat × State :=
  match s.loadQueue.filter (LoadEntry.named addr tag) with
  | [e] =>
    let t := if e.valid then s.setX e.rd e.prior else s
    let q := s.loadQueue.filter fun f => !LoadEntry.named addr tag f
    (1, ({ t with loadQueue := q } : State).imprecise addr s.cfg.nmiCauseLoad)
  | m => (m.length, s)

/-- `applyLoadFinished(address, tag)` (R809). -/
def State.applyLoadFinished (s : State) (addr tag : Word) : Nat × State :=
  match s.loadQueue.filter (LoadEntry.named addr tag) with
  | [_] => (1, { s with loadQueue := s.loadQueue.filter fun f => !LoadEntry.named addr tag f })
  | m => (m.length, s)

/-- Give a younger entry the older prior byte, where it wrote that byte. -/
def replacePrior (b : Word) (old : Byte) : List Word → List Byte → List Byte
  | p :: ps, o :: os => (if p = b then old else o) :: replacePrior b old ps os
  | _, os => os

/-- Roll one byte back through the younger entries, oldest first: the first that wrote it takes the prior byte; if
none did, memory does. Answers the entries and whether memory is to be written (R808). That of several it is the oldest
is DEDUCED (log 14): its prior byte is the one the undone store wrote. -/
def rollByte (b : Word) (old : Byte) : List StoreEntry → List StoreEntry × Bool
  | [] => ([], true)
  | y :: rest =>
    if y.phys.contains b then ({ y with prior := replacePrior b old y.phys y.prior } :: rest, false)
    else
      let r := rollByte b old rest
      (y :: r.1, r.2)

/-- Roll the bytes of a store back: the younger entries, and the state (R808). -/
def rollBytes (s : State) (younger : List StoreEntry) : List Word → List Byte → State × List StoreEntry
  | b :: bs, o :: os =>
    let r := rollByte b o younger
    rollBytes (if r.2 then (s.touch [b]).setPhysByte b o else s) r.1 bs os
  | _, _ => (s, younger)

/-- The entries before and after the one at an address. -/
def splitAt (addr : Word) : List StoreEntry → List StoreEntry × List StoreEntry
  | [] => ([], [])
  | e :: rest =>
    if e.addr = addr then ([], rest)
    else
      let r := splitAt addr rest
      (e :: r.1, r.2)

/-- `applyStoreException(address)` (R808). -/
def State.applyStoreException (s : State) (addr : Word) : Nat × State :=
  match s.storeQueue.filter fun e => e.addr == addr with
  | [e] =>
    let parts := splitAt addr s.storeQueue
    let r := rollBytes s parts.2 e.phys e.prior
    (1, ({ r.1 with storeQueue := parts.1 ++ r.2 } : State).imprecise addr s.cfg.nmiCauseStore)
  | m => (m.length, s)

/-! ## The what-if step (R815 to R819) -/

/-- The returned change record (R817). -/
structure ChangeReport where
  pc : Word
  xreg : Option (Reg × Word)
  memory : Option (Word × Nat × Word)
  csrs : List (CsrNum × Word)
  priv : Option Priv
  deriving DecidableEq, Repr

/-- Whether a CSR's value is another CSR's seen through it: reported there only (log 31). -/
def Csr.isShadow : Csr → Bool
  | .sstatus | .sie | .sip | .cycle | .time | .instret | .hpmcounter _ | .meihap => true
  | _ => false

/-- The CSRs whose value changed, with their new values (R817). `tdata1` and `tdata2` are compared as they are read,
through `tselect` (DESIGN CHOICE, log 31). -/
def csrChanges (before after : State) : List (CsrNum × Word) :=
  (Csr.all.filter fun r => r.present before.cfg && !r.isShadow && before.csrRead r != after.csrRead r).map
    fun r => (r.num, after.csrRead r)

/-- The register an instruction that retired wrote, with its new value. -/
def writtenX (t : State) : Option (Reg × Word) :=
  if t.ctx.retired then t.ctx.wroteX.map fun r => (r, t.readX r) else none

/-- The memory location a store that retired wrote. Its address is the effective one, the address the instruction
computed, whatever translation makes of it (DESIGN CHOICE, log 31). -/
def writtenMem (t : State) : Option (Word × Nat × Word) :=
  if t.ctx.retired then t.ctx.store.map fun w => (w.addr, w.size, w.value) else none

/-- `report(S, current state)` (R817). -/
def changeReport (before after : State) : ChangeReport where
  pc := after.pc
  xreg := writtenX after
  memory := writtenMem after
  csrs := csrChanges before after
  priv := if before.priv = after.priv then none else some after.priv

/-- The given instruction word of a what-if step (R816). -/
def whatIfBits (w : Bits) : Bits := if w.extractLsb' 0 2 = 3#2 then w else w &&& 0xFFFF#32

/-- The probing step, before its effects are reverted (R815). Its `endStep` counts also when the hart is halted
(DEDUCED, log 22), and it runs, as every host call does, whatever the configuration (DESIGN CHOICE, log 13). -/
def State.probe (s : State) (pc : Word) (w : Bits) : State :=
  let t := { s.pokePc pc with tick := s.tick + 1, ctx := { attempted := true, fetchOverride := some (whatIfBits w) } }
  match t.executeOne with
  | .next u => u.endStep
  | .fault _ => t
  | .refused _ => t

/-- The revert: all but the instrumentation counts and the devices' own state (R819). -/
def State.revert (s after : State) : State := { s with counts := after.counts, tick := after.tick }

/-- `whatIf(pc', instruction)` (R815): whether it would retire, what it would change, and the state after the call. -/
def State.whatIf (s : State) (pc : Word) (w : Bits) : (Bool × ChangeReport) × State :=
  let t := s.probe pc w
  ((t.ctx.retired, changeReport s t), s.revert t)

/-! ## Reset (R831) and shared CSRs (R67) -/

/-- Copy the stored value of a CSR from another hart's; a CSR with no storage of its own has none to copy. -/
def CsrFile.copy (r : Csr) (src dst : CsrFile) : CsrFile :=
  match r with
  | .stvec => { dst with stvec := src.stvec }
  | .scounteren => { dst with scounteren := src.scounteren }
  | .sscratch => { dst with sscratch := src.sscratch }
  | .sepc => { dst with sepc := src.sepc }
  | .scause => { dst with scause := src.scause }
  | .stval => { dst with stval := src.stval }
  | .satp => { dst with satp := src.satp }
  | .mstatus => { dst with mstatus := src.mstatus }
  | .medeleg => { dst with medeleg := src.medeleg }
  | .mideleg => { dst with mideleg := src.mideleg }
  | .mie => { dst with mie := src.mie }
  | .mtvec => { dst with mtvec := src.mtvec }
  | .mcounteren => { dst with mcounteren := src.mcounteren }
  | .mcountinhibit => { dst with mcountinhibit := src.mcountinhibit }
  | .mhpmevent i => { dst with mhpmevent := dst.mhpmevent.set i.val src.mhpmevent[i.val] }
  | .mscratch => { dst with mscratch := src.mscratch }
  | .mepc => { dst with mepc := src.mepc }
  | .mcause => { dst with mcause := src.mcause }
  | .mtval => { dst with mtval := src.mtval }
  | .mip => { dst with mip := src.mip }
  | .pmpcfg0 => { dst with pmpcfg0 := src.pmpcfg0 }
  | .pmpcfg2 => { dst with pmpcfg2 := src.pmpcfg2 }
  | .pmpaddr i => { dst with pmpaddr := dst.pmpaddr.set i.val src.pmpaddr[i.val] }
  | .tselect => { dst with tselect := src.tselect }
  | .dcsr => { dst with dcsr := src.dcsr }
  | .dpc => { dst with dpc := src.dpc }
  | .dscratch0 => { dst with dscratch0 := src.dscratch0 }
  | .dscratch1 => { dst with dscratch1 := src.dscratch1 }
  | .mscause => { dst with mscause := src.mscause }
  | .mcycle => { dst with mcycle := src.mcycle }
  | .minstret => { dst with minstret := src.minstret }
  | .mhpmcounter i => { dst with mhpmcounter := dst.mhpmcounter.set i.val src.mhpmcounter[i.val] }
  | .meivt => { dst with meivt := src.meivt }
  | .mdseac => { dst with mdseac := src.mdseac }
  | .meihap => { dst with claimid := src.claimid }
  | .sstatus | .sie | .sip | .misa | .tdata1 | .tdata2 | .tdata3 | .tinfo | .mdeau | .cycle | .time | .instret
  | .hpmcounter _ | .mvendorid | .marchid | .mimpid | .mhartid => dst

/-- Copy what `f` takes from each slot of one hart into the slot of the same index of another. -/
def shareSlots (f : TrigSlot → TrigSlot → TrigSlot) : List TrigSlot → List TrigSlot → List TrigSlot
  | a :: as, b :: bs => f a b :: shareSlots f as bs
  | _, bs => bs

/-- The bits of `mie` and `mip` that `sie` and `sip` can show, whatever `mideleg` holds (R77, R122, R129). -/
def supervisorBits : Word := 0x222#64

/-- Give `dst` the value `src` holds of a CSR both have (R67). `tdata1` and `tdata2` are shared slot by slot, a listed
view shares the bits of its CSR that it can show, and a value that `dst` could not have written itself is taken as it is
(DESIGN CHOICE, log 19). -/
def State.shareCsr (r : Csr) (src dst : State) : State :=
  if r.present src.cfg && r.present dst.cfg then
    match r with
    | .tdata1 => { dst with trig := shareSlots (fun a b => { b with tdata1 := a.tdata1 }) src.trig dst.trig }
    | .tdata2 => { dst with trig := shareSlots (fun a b => { b with tdata2 := a.tdata2 }) src.trig dst.trig }
    | .sstatus =>
      { dst with csr := { dst.csr with mstatus := merge dst.csr.mstatus src.csr.mstatus 0x80000003000DE122#64 } }
    | .sie => { dst with csr := { dst.csr with mie := merge dst.csr.mie src.csr.mie supervisorBits } }
    | .sip => { dst with csr := { dst.csr with mip := merge dst.csr.mip src.csr.mip supervisorBits } }
    | r => { dst with csr := CsrFile.copy r src.csr dst.csr }
  else dst

/-- Share every listed CSR. -/
def State.shareAll (src : State) : List CsrNum → State → State
  | [], dst => dst
  | n :: t, dst =>
    match Csr.ofNum n with
    | some r => State.shareAll src t (State.shareCsr r src dst)
    | none => State.shareAll src t dst

/-- This hart's CLINT words at reset, the other harts' kept (R831). -/
def Clint.resetHart (c : Clint) (h : Nat) : Clint where
  msip := c.msip.set h false
  mtimecmp := c.mtimecmp.set h allOnes
  mtime := 0

/-- `reset()` (R831): it keeps the configuration, memory and the other harts' CLINT words, and sets every CSR; in a
system, `State.resetBeside` gives the values shared with another hart back. -/
def State.hostReset (s : State) : State :=
  { State.resetWith s.cfg with
    mem := s.mem
    clint := s.clint.resetHart s.cfg.hartId.toNat
    consoleOut := s.consoleOut
    tick := s.tick
    flushes := s.flushes }

/-! ## The host's calls as one type (R311) -/

/-- The calls of R311, the by-name forms of R521 among them. -/
inductive HostCall where
  | peekX (i : Nat)
  | pokeX (i : Nat) (v : Word)
  | peekPc
  | pokePc (v : Word)
  | peekCsr (n : CsrNum)
  | pokeCsr (n : CsrNum) (v : Word)
  | peekCsrNamed (name : String)
  | pokeCsrNamed (name : String) (v : Word)
  | peekMem (a : Word) (n : Nat)
  | pokeMem (a : Word) (n : Nat) (v : Word)
  | requestNmi (cause : Word)
  | requestDebugHalt
  | resume
  | setTime (t : Word)
  | setLoadTag (tag : Word)
  | applyLoadException (addr tag : Word)
  | applyStoreException (addr : Word)
  | applyLoadFinished (addr tag : Word)
  | whatIf (pc : Word) (w : Bits)
  | reset
  deriving DecidableEq, Repr

/-- What a call returns (R311): success, failure, a value, a match count, or the report of a what-if. -/
inductive HostAnswer where
  | done
  | failed
  | value (v : Word)
  | matches (n : Nat)
  | report (retires : Bool) (r : ChangeReport)
  deriving DecidableEq, Repr

/-- The answer of a read, and the state, which it leaves as it is. -/
def State.answerRead (s : State) (v : Option Word) : HostAnswer × State :=
  match v with
  | some v => (.value v, s)
  | none => (.failed, s)

/-- The answer of a write; a failure changes nothing (R311). -/
def State.answerWrite (s : State) (t : Option State) : HostAnswer × State :=
  match t with
  | some t => (.done, t)
  | none => (.failed, s)

/-- A host call: its answer, and the state after it (R311). -/
def State.call (s : State) : HostCall → HostAnswer × State
  | .peekX i => s.answerRead (s.peekX i)
  | .pokeX i v => s.answerWrite (s.pokeX i v)
  | .peekPc => (.value s.peekPc, s)
  | .pokePc v => (.done, s.pokePc v)
  | .peekCsr n => s.answerRead (s.peekCsr n)
  | .pokeCsr n v => s.answerWrite (s.pokeCsr n v)
  | .peekCsrNamed name => s.answerRead (s.peekCsrNamed name)
  | .pokeCsrNamed name v => s.answerWrite (s.pokeCsrNamed name v)
  | .peekMem a n =>
    match s.peekMem a n with
    | some r => (.value r.1, r.2)
    | none => (.failed, s)
  | .pokeMem a n v => s.answerWrite (s.pokeMem a n v)
  | .requestNmi cause => (.done, s.requestNmi cause)
  | .requestDebugHalt => (.done, s.requestDebugHalt)
  | .resume => s.answerWrite s.resume
  | .setTime t => (.done, s.setTime t)
  | .setLoadTag tag => (.done, s.setLoadTag tag)
  | .applyLoadException addr tag => (.matches (s.applyLoadException addr tag).1, (s.applyLoadException addr tag).2)
  | .applyStoreException addr => (.matches (s.applyStoreException addr).1, (s.applyStoreException addr).2)
  | .applyLoadFinished addr tag => (.matches (s.applyLoadFinished addr tag).1, (s.applyLoadFinished addr tag).2)
  | .whatIf pc w => (.report (s.whatIf pc w).1.1 (s.whatIf pc w).1.2, (s.whatIf pc w).2)
  | .reset => (.done, s.hostReset)

end Sys2Proof.Machine
end

