-- ==== Sys2Proof/Machine/MultiHart.lean ====
section
/-! DEFINITION. A system of harts: each its own state, sharing memory, the CLINT and the CSRs both list (20_memory
R226, 60_exceptions R714, R725; 10_state R67). Which action comes next, the step of a hart or a call of the host, is the
caller's choice: every interleaving is a list of actions (log 15). -/

namespace Sys2Proof.Machine

structure System where
  harts : List State
  deriving DecidableEq, Repr

/-- Whether the configurations are those of one system (R725): every one admitted, as many as each one's NUM_HARTS, no
two with one HART_ID. Every other parameter may differ, CLINT_ENABLED, CLINT_BASE and the memory map among them
(DESIGN CHOICE, log 15). -/
def systemAdmitted (cfgs : List Config) : Bool :=
  cfgs.all (fun c => c.admitted && decide (c.numHarts = cfgs.length)) && decide (cfgs.map Config.hartId).Nodup

/-- The CSRs that two configurations both list (R67). -/
def Config.sharedWith (c d : Config) : List CsrNum := c.sharedCsrs.filter fun n => d.sharedCsrs.contains n

/-- Take the values another hart holds of the CSRs both share (R67). -/
def State.adopt (s other : State) : State := other.shareAll (s.cfg.sharedWith other.cfg) s

/-- Whether an action changed what the acting hart shares of a CSR: its value, that of any slot, or the bits of `mie` and
`mip` that a view can show. -/
def Csr.changed (r : Csr) (before after : State) : Bool :=
  match r with
  | .tdata1 => before.trig.map TrigSlot.tdata1 != after.trig.map TrigSlot.tdata1
  | .tdata2 => before.trig.map TrigSlot.tdata2 != after.trig.map TrigSlot.tdata2
  | .sie => before.csr.mie &&& supervisorBits != after.csr.mie &&& supervisorBits
  | .sip => before.csr.mip &&& supervisorBits != after.csr.mip &&& supervisorBits
  | r => before.csrRead r != after.csrRead r

/-- The CSRs of both harts' lists that an action wrote, whatever the value, or changed otherwise. -/
def State.sharedNow (s : State) (written : List CsrNum) (before after : State) : List CsrNum :=
  (s.cfg.sharedWith after.cfg).filter fun n => written.contains n || (Csr.ofNum n).any fun r => r.changed before after

/-- What a hart sees when an action takes another from `before` to `after`: memory, the CLINT, the devices' progress,
and every CSR both share that the action wrote or changed (R67, R510, R520); any other is not shared again. What it so
takes is not passed on to a third hart, whose list may name a CSR and not its view (DESIGN CHOICE, log 19). -/
def State.see (s : State) (written : List CsrNum) (before after : State) : State :=
  after.shareAll (s.sharedNow written before after)
    { s with mem := after.mem, clint := after.clint, tick := after.tick }

/-- Put the new state of hart `i` in place. -/
def System.install (y : System) (i : Nat) (written : List CsrNum) (s t : State) : System :=
  { harts := (y.harts.map fun h => h.see written s t).set i t }

/-- `reset()` of a hart beside others (R831): the values that it shares with another hart are that hart's and stay. Where
those harts differ, the one listed first in the system gives the value (DESIGN CHOICE, log 15). -/
def State.resetBeside (s : State) (others : List State) : State := others.foldr (fun h t => t.adopt h) s.hostReset

/-- The state after a call of the host to a hart beside others. -/
def State.callBeside (s : State) (others : List State) : HostCall → State
  | .reset => s.resetBeside others
  | c => (s.call c).2

/-- One action of the interleaving of R226: a whole step of a hart, or a call of the host to a hart. -/
inductive SystemAction where
  | step (i : Nat)
  | host (i : Nat) (c : HostCall)
  deriving DecidableEq, Repr

/-- The hart that acts. -/
def SystemAction.hart : SystemAction → Nat
  | .step i => i
  | .host i _ => i

/-- The CSRs that the instruction of a step writes and does not take back (R510). -/
def State.stepWrites (s : State) : List CsrNum :=
  if s.done || s.debugMode || s.cfg.stopAddress == some s.pc then []
  else
    match s.beginStep.branchStep with
    | .next t => t.ctx.csrWritten
    | .fault _ => []
    | .refused _ => []

/-- The CSRs an action writes by their number: an instruction's (R510), or that of a poke that succeeds (R520). -/
def State.writtenBy (s : State) : SystemAction → List CsrNum
  | .step _ => s.stepWrites
  | .host _ (.pokeCsr n v) => if (s.pokeCsr n v).isSome then [n] else []
  | .host _ (.pokeCsrNamed name v) =>
    match s.csrNamed name with
    | some r => if (s.pokeCsr r.num v).isSome then [r.num] else []
    | none => []
  | .host _ _ => []

/-- The acting hart's state after the action; `none` when its step is no next state. -/
def System.acted (y : System) (s : State) : SystemAction → Option State
  | .step _ =>
    match Sys2Proof.Machine.step s with
    | .next t => some t
    | .fault _ => none
    | .refused _ => none
  | .host i c => some (s.callBeside (y.harts.eraseIdx i) c)

/-- One action; `none` when the configurations are not those of one system, there is no such hart, or its step is no
next state. -/
def System.act (y : System) (a : SystemAction) : Option System :=
  if systemAdmitted (y.harts.map State.cfg) then
    match y.harts[a.hart]? with
    | none => none
    | some s =>
      match y.acted s a with
      | some t => some (y.install a.hart (s.writtenBy a) s t)
      | none => none
  else none

/-- One whole step of hart `i`. -/
def System.stepHart (y : System) (i : Nat) : Option System := y.act (.step i)

/-- What a call of the host to hart `i` returns (R311). -/
def System.answer (y : System) (i : Nat) (c : HostCall) : Option HostAnswer :=
  match y.harts[i]? with
  | none => none
  | some s => some (s.call c).1

/-- Actions in a given order (R226). -/
def System.run : System → List SystemAction → Option System
  | y, [] => some y
  | y, a :: rest =>
    match y.act a with
    | some z => System.run z rest
    | none => none

/-- The harts `earlier`, then those that follow: each takes, for a CSR it shares, the reset value of the first hart that
lists it. -/
def alignShared : List State → List State → List State
  | _, [] => []
  | earlier, s :: rest => earlier.foldr (fun e t => t.adopt e) s :: alignShared (earlier ++ [s]) rest

/-- All harts leave reset together (R725); `none` when the configurations are not those of one system. A CSR shared by
harts whose own reset values differ holds that of the first hart that lists it, the spec giving none (DESIGN CHOICE,
log 19). -/
def System.reset (cfgs : List Config) : Option System :=
  if systemAdmitted cfgs then some { harts := alignShared [] (cfgs.map State.resetWith) } else none

end Sys2Proof.Machine
end

