-- ==== Sys2Proof/Safety.lean ====
section
/-! DEFINITION. What a state of a running hart satisfies, in the terms the statements use: the invariants every step
keeps, what a run without faults is, and what two states have in common. -/

namespace Sys2Proof.Machine

/-! ## Invariants -/

/-- Memory stays in canonical form, every saved pc and the pc itself stay aligned to IALIGN (R58, R85, R126, R141),
and every held mode is one the configuration has (R60, R71, R140). -/
structure State.Inv (s : State) : Prop where
  admitted : s.cfg.admitted = true
  memWf : s.mem.wf
  pcAligned : s.cfg.pcAligned s.pc = true
  mepcAligned : s.cfg.pcAligned s.csr.mepc = true
  sepcAligned : s.cfg.pcAligned s.csr.sepc = true
  dpcAligned : s.cfg.pcAligned s.csr.dpc = true
  privLegal : s.cfg.privLegal s.priv = true
  mppLegal : s.cfg.modeLegal (mppOf s.csr.mstatus) = true
  dcsrPrvLegal : s.cfg.modeLegal (s.csr.dcsr.extractLsb' 0 2) = true

/-- The bits of a value outside a mask are zero. -/
def within (v mask : Word) : Prop := v &&& ~~~mask = 0#64

/-- The hardwired fields of the status, interrupt, delegation and vector CSRs read as the spec says (R70, R76 to R79,
R88, R123, R143). -/
structure State.Reserved (s : State) : Prop where
  mstatus : s.csr.mstatus &&& ~~~(s.cfg.mstatusMask ||| 0x1800#64) = s.cfg.mstatusReset &&& ~~~0x1800#64
  medeleg : within s.csr.medeleg (maskIf s.cfg.extS 0xB3FF#64)
  mideleg : within s.csr.mideleg (maskIf s.cfg.extS 0x222#64)
  mie : within s.csr.mie (if s.cfg.extS then 0xAAA#64 else 0x888#64)
  mip : within s.csr.mip (if s.cfg.extS then 0xAAA#64 else 0x888#64)
  mtvec : s.csr.mtvec.getLsbD 1 = false
  stvec : s.csr.stvec.getLsbD 1 = false
  mscause : within s.csr.mscause 0xF#64

/-- The bounded parts: the trigger slots, `tselect`, and the two queues (R135, R148, R154, R803). -/
structure State.Bounded (s : State) : Prop where
  slots : s.trig.length = s.cfg.numTriggers
  tselect : s.csr.tselect.toNat < s.cfg.numTriggers ∨ s.csr.tselect = 0#64
  loadDepth : s.loadQueue.length ≤ s.cfg.loadQueueDepth
  loadOff : s.cfg.loadQueueEnabled = false → s.loadQueue = []
  storeDepth : s.storeQueue.length ≤ s.cfg.storeQueueDepth

/-- Between steps: no step context is left, a halted hart has no halt request and no single step pending (R701, R780),
and a hart is done exactly when it has a reason (R157). -/
structure State.Idle (s : State) : Prop where
  ctx : s.ctx = {}
  halted : s.debugMode = true → s.debugHaltPending = false ∧ s.stepPending = false
  done : s.done = s.stopReason.isSome

/-! ## Runs -/

/-- `k` steps that all answer a next state. -/
def runsTo : Nat → State → State → Prop
  | 0, s, t => s = t
  | k + 1, s, t => ∃ u, step s = .next u ∧ runsTo k u t

/-- A hart whose configuration the spec admits never stops with a fault or a refusal. -/
def neverFaults (s : State) : Prop := ∀ k : Nat, ∃ t, runsTo k s t

/-! ## What two states have in common -/

/-- Configuration, mode, CSRs, triggers, pending requests, stop state and counts are the same. -/
structure SameCore (s t : State) : Prop where
  cfg : t.cfg = s.cfg
  priv : t.priv = s.priv
  debugMode : t.debugMode = s.debugMode
  csr : t.csr = s.csr
  trig : t.trig = s.trig
  nmiPending : t.nmiPending = s.nmiPending
  nmiCause : t.nmiCause = s.nmiCause
  mdseacLocked : t.mdseacLocked = s.mdseacLocked
  debugHaltPending : t.debugHaltPending = s.debugHaltPending
  stepPending : t.stepPending = s.stepPending
  loadTag : t.loadTag = s.loadTag
  done : t.done = s.done
  stopReason : t.stopReason = s.stopReason
  execCount : t.execCount = s.execCount
  counts : t.counts = s.counts

/-- Memory, the CLINT, the store queue, the console and the requested flushes are the same. -/
structure SameOutside (s t : State) : Prop where
  mem : t.mem = s.mem
  clint : t.clint = s.clint
  storeQueue : t.storeQueue = s.storeQueue
  consoleOut : t.consoleOut = s.consoleOut
  flushes : t.flushes = s.flushes

/-- Only `rd` may differ among the general registers, and it holds `v` unless it is `x0` (R52). -/
def OnlyReg (s t : State) (rd : Reg) (v : Word) : Prop :=
  ∀ q : Reg, t.readX q = if q = rd ∧ rd ≠ 0#5 then v else s.readX q

/-- The load queue after an instruction that wrote `rd` and pushed nothing (R805). -/
def QueueAfterWrite (s t : State) (rd : Reg) : Prop :=
  t.loadQueue = if rd = 0#5 then s.loadQueue
    else s.loadQueue.map fun e => if e.rd = rd then { e with valid := false } else e

/-! ## What an instruction does, in whole -/

/-- The instruction retires, writes `v` to `rd`, moves on by `len`, and changes nothing else. -/
def WritesReg (i : Instr) (s : State) (len : Nat) (rd : Reg) (v : Word) : Prop :=
  ∃ t, exec i s = .next t ∧ t.ctx.retired = true ∧ t.pc = s.pc + BitVec.ofNat 64 len ∧ OnlyReg s t rd v
    ∧ QueueAfterWrite s t rd ∧ SameCore s t ∧ SameOutside s t

/-- The instruction retires and changes only the pc. -/
def OnlyMovesOn (i : Instr) (s : State) (len : Nat) : Prop :=
  ∃ t, exec i s = .next t ∧ t.ctx.retired = true ∧ t.pc = s.pc + BitVec.ofNat 64 len ∧ t.x = s.x
    ∧ t.loadQueue = s.loadQueue ∧ SameCore s t ∧ SameOutside s t

/-- The instruction retires, goes to `target`, writes the address after it to `rd`, and changes nothing else. -/
def JumpsTo (i : Instr) (s : State) (len : Nat) (rd : Reg) (target : Word) : Prop :=
  ∃ t, exec i s = .next t ∧ t.ctx.retired = true ∧ t.pc = target ∧ OnlyReg s t rd (s.pc + BitVec.ofNat 64 len)
    ∧ QueueAfterWrite s t rd ∧ SameCore s t ∧ SameOutside s t

/-- The instruction retires, goes to `target`, and changes nothing else. -/
def BranchesTo (i : Instr) (s : State) (target : Word) : Prop :=
  ∃ t, exec i s = .next t ∧ t.ctx.retired = true ∧ t.pc = target ∧ t.x = s.x
    ∧ t.loadQueue = s.loadQueue ∧ SameCore s t ∧ SameOutside s t

/-- No trigger slot is set to compare what the kind compares. -/
def State.quiet (s : State) (k : TrigKind) : Bool := s.trig.all fun t => !(trigType t.tdata1 == 2#4 && k.selected t.tdata1)

/-- The load queue after a committed load of `n` bytes at `a` to `rd` (R801, R803, R805). -/
def State.queueAfterLoad (s : State) (n : Nat) (rd : Reg) (a : Word) : List LoadEntry :=
  let q := if rd = 0#5 then s.loadQueue
    else s.loadQueue.map fun e => if e.rd = rd then { e with valid := false } else e
  let e : LoadEntry :=
    { size := n, addr := a, rd := rd, prior := s.readX rd, valid := rd != 0#5, wide := false, tag := s.loadTag }
  if s.cfg.loadQueueEnabled then (q ++ [e]).drop (q.length + 1 - s.cfg.loadQueueDepth) else q

/-- The store queue after a committed store of `n` bytes at `a`, `ps` their physical addresses (R802, R803). -/
def State.queueAfterStore (s : State) (n : Nat) (a : Word) (ps : List Word) : List StoreEntry :=
  let e : StoreEntry :=
    { size := n, addr := a, prior := ps.map s.physByte, phys := ps, valid := true, wide := false, tag := 0 }
  (s.storeQueue ++ [e]).drop (s.storeQueue.length + 1 - s.cfg.storeQueueDepth)

/-- A load of `n` bytes at `a` that passes its checks retires, writes `ext` of the little-endian value of the bytes to
`rd`, and changes nothing else. -/
def Loads (i : Instr) (s : State) (len n : Nat) (rd : Reg) (a : Word) (ext : Word → Word) : Prop :=
  ∀ ps, s.locate .load a n = .ok ps → s.quiet .loadAddr = true → s.quiet .loadData = true →
    ∃ t, exec i s = .next t ∧ t.ctx.retired = true ∧ t.pc = s.pc + BitVec.ofNat 64 len
      ∧ OnlyReg s t rd (ext (leValue (ps.map s.physByte))) ∧ t.loadQueue = s.queueAfterLoad n rd a
      ∧ SameCore s t ∧ SameOutside s t

/-- The CLINT after a store of the bytes of `v`, the least significant first, to the physical addresses `ps`: the bytes
that lie in its region are stored there in order (R710, R713). -/
def State.clintAfterStore (s : State) (ps : List Word) (v : Word) : Clint :=
  (List.range ps.length).foldl (init := s.clint) fun c k =>
    match ps[k]? with
    | some p => if s.cfg.inClint p then c.writeByte (s.cfg.clintOffset p) (v.extractLsb' (8 * k) 8) else c
    | none => c

/-- A store of the low `n` bytes of `v` at `a` that passes its checks retires; each byte that is memory's holds its
byte of `v`, every byte of memory outside them is as before, the CLINT holds the bytes that reach it and is otherwise as
before, and nothing else changes but the store queue and the console (its hand-over: log 10). -/
def Stores (i : Instr) (s : State) (len n : Nat) (a v : Word) : Prop :=
  ∀ ps, s.locate .store a n = .ok ps → s.quiet .storeAddr = true → s.quiet .storeData = true → s.mem.wf →
    ∃ t, exec i s = .next t ∧ t.ctx.retired = true ∧ t.pc = s.pc + BitVec.ofNat 64 len
      ∧ (∀ b : Nat, (∀ p ∈ ps, p.toNat ≠ b) → t.mem.read b = s.mem.read b)
      ∧ (ps.Nodup → ∀ k, ∀ h : k < ps.length, s.cfg.nonIdempotent ps[k] = false →
          t.mem.read ps[k].toNat = v.extractLsb' (8 * k) 8)
      ∧ t.clint = s.clintAfterStore ps v ∧ ((∀ p ∈ ps, s.cfg.inClint p = false) → t.clint = s.clint)
      ∧ t.x = s.x ∧ t.loadQueue = s.loadQueue ∧ t.storeQueue = s.queueAfterStore n a ps
      ∧ t.consoleOut = (if s.cfg.consoleIoAddress = some a then s.consoleOut ++ [v.setWidth 8] else s.consoleOut)
      ∧ t.flushes = s.flushes ∧ SameCore s t

/-- The configuration, the pending requests, the load tag, and what the host sees of the run are the same. -/
structure SameControl (s t : State) : Prop where
  cfg : t.cfg = s.cfg
  debugMode : t.debugMode = s.debugMode
  nmiPending : t.nmiPending = s.nmiPending
  nmiCause : t.nmiCause = s.nmiCause
  debugHaltPending : t.debugHaltPending = s.debugHaltPending
  stepPending : t.stepPending = s.stepPending
  loadTag : t.loadTag = s.loadTag
  done : t.done = s.done
  stopReason : t.stopReason = s.stopReason
  execCount : t.execCount = s.execCount

/-- The instruction ends in the exception, taken with the state as it was before the instruction: it does not retire,
and nothing changes but what taking the exception changes. -/
def TakesException (i : Instr) (s : State) (c : Exc) (tval : Word) : Prop :=
  ∃ t u, exec i s = .next t ∧ u = s.takeTrap (.exception c tval s.pc) ∧ t.csr = u.csr ∧ t.priv = u.priv ∧ t.pc = u.pc
    ∧ t.counts = u.counts ∧ t.ctx.retired = false ∧ t.ctx.exceptionTaken = some c ∧ t.x = s.x
    ∧ t.loadQueue = s.loadQueue ∧ t.trig = s.trig ∧ t.mdseacLocked = s.mdseacLocked ∧ SameControl s t ∧ SameOutside s t

/-! ## Taking a trap -/

/-- What trap entry into M mode leaves: the saved pc, the cause, the trap value, the secondary cause, the saved enable
and mode, M mode, the pc at `target`, and the event counted; nothing else changes but the step context (R690, R695). -/
def EntersMachine (s : State) (e : TrapEvent) (epc cause tval target : Word) : Prop :=
  let t := s.takeTrap e
  t.csr.mepc = epc &&& s.cfg.epcMask ∧ t.csr.mcause = cause ∧ t.csr.mtval = tval ∧ t.csr.mscause = s.cfg.secondary e
    ∧ t.csr.mstatus.getLsbD 7 = s.csr.mstatus.getLsbD 3 ∧ t.csr.mstatus.getLsbD 3 = false
    ∧ mppOf t.csr.mstatus = s.priv.code
    ∧ (∀ j, j ∉ [3, 7, 11, 12] → t.csr.mstatus.getLsbD j = s.csr.mstatus.getLsbD j)
    ∧ t.priv = .m ∧ t.pc = target ∧ t.counts = bumpCount e.key s.counts
    ∧ t.csr = { s.csr with mepc := t.csr.mepc, mcause := t.csr.mcause, mtval := t.csr.mtval,
                            mscause := t.csr.mscause, mstatus := t.csr.mstatus }
    ∧ t = { s with csr := t.csr, priv := t.priv, pc := t.pc, counts := t.counts, ctx := t.ctx }

/-- What trap entry into S mode leaves (R690, R696, R699). -/
def EntersSupervisor (s : State) (e : TrapEvent) (epc cause tval target : Word) : Prop :=
  let t := s.takeTrap e
  t.csr.sepc = epc &&& s.cfg.epcMask ∧ t.csr.scause = cause ∧ t.csr.stval = tval
    ∧ t.csr.mstatus.getLsbD 5 = s.csr.mstatus.getLsbD 1 ∧ t.csr.mstatus.getLsbD 1 = false
    ∧ t.csr.mstatus.getLsbD 8 = decide (s.priv = .s)
    ∧ (∀ j, j ∉ [1, 5, 8] → t.csr.mstatus.getLsbD j = s.csr.mstatus.getLsbD j)
    ∧ t.priv = .s ∧ t.pc = target ∧ t.counts = bumpCount e.key s.counts
    ∧ t.csr = { s.csr with sepc := t.csr.sepc, scause := t.csr.scause, stval := t.csr.stval,
                            mstatus := t.csr.mstatus }
    ∧ t = { s with csr := t.csr, priv := t.priv, pc := t.pc, counts := t.counts, ctx := t.ctx }

/-- Where an interrupt goes by a vector register: the base, or the slot of its cause when the mode is 1 (R694). -/
def interruptTarget (tvec : Word) (i : Irq) : Word :=
  if tvec.extractLsb' 0 2 = 1#2 then (tvec &&& ~~~3#64) + 4#64 * BitVec.ofNat 64 i.code else tvec &&& ~~~3#64

/-! ## CSR instructions -/

/-- The conditions of R500; the debug CSRs are refused to every instruction (R500's text, R786). -/
def csrDenied (s : State) (n : CsrNum) (isWrite : Bool) : Prop :=
  s.csrOf n = none
    ∨ (0x7B0 ≤ n.toNat ∧ n.toNat ≤ 0x7BF)
    ∨ s.priv.code.toNat < (n.extractLsb' 8 2).toNat
    ∨ (isWrite = true ∧ n.extractLsb' 10 2 = 3#2)
    ∨ (n = 0x180#12 ∧ s.priv = .s ∧ s.csr.mstatus.getLsbD 20 = true)
    ∨ (0xC00 ≤ n.toNat ∧ n.toNat ≤ 0xC1F ∧
        ((s.priv ≠ .m ∧ s.cfg.extU = true ∧ s.csr.mcounteren.getLsbD (n.toNat - 0xC00) = false)
          ∨ (s.priv = .u ∧ s.cfg.extS = true ∧ s.csr.scounteren.getLsbD (n.toNat - 0xC00) = false)))

/-- What a CSR instruction does when R500 allows it: the old value goes to `rd`, the new one through the CSR's store,
and nothing else changes but the validity marks of the load queue. -/
def csrDone (i : Instr) (s : State) (n : CsrNum) (rd : Reg) (new : Word → Option Word) : Prop :=
  ∃ r t, s.csrOf n = some r ∧ exec i s = .next t ∧ t.ctx.retired = true ∧ t.pc = s.pc + 4#64
    ∧ OnlyReg s t rd (s.csrRead r) ∧ QueueAfterWrite s t rd
    ∧ (match new (s.csrRead r) with
      | none => t.csr = s.csr ∧ t.trig = s.trig ∧ t.mdseacLocked = s.mdseacLocked
      | some v => t.csr = (s.csrStore false r v).csr ∧ t.trig = (s.csrStore false r v).trig
          ∧ t.mdseacLocked = (s.csrStore false r v).mdseacLocked)
    ∧ t.priv = s.priv ∧ t.counts = s.counts ∧ SameControl s t ∧ SameOutside s t

/-- The write masks of the CSRs that have no further legalisation rule, as 10_state gives them (R65, R76 to R95, R123 to
R128, R143, R145). -/
def plainMask (c : Config) : Csr → Option Word
  | .mscratch | .sscratch | .mcause | .scause | .mtval | .stval | .mcycle | .minstret => some (BitVec.allOnes 64)
  | .mepc | .sepc => some (if c.extC then ~~~1#64 else ~~~3#64)
  | .mtvec | .stvec => some (~~~2#64)
  | .mie => some (if c.extS then 0xAAA#64 else 0x888#64)
  | .mip => some (if c.extS then 0x222#64 else 0#64)
  | .medeleg => some 0xB3FF#64
  | .mideleg => some 0x222#64
  | .mcounteren | .scounteren => some 0xFFFFFFFF#64
  | .mcountinhibit => some (0x5#64 ||| (BitVec.ofNat 64 (2 ^ c.numHpm - 1) <<< 3))
  | .mhpmevent i => some (if i.val < c.numHpm then BitVec.allOnes 64 else 0#64)
  | .mhpmcounter i => some (if i.val < c.numHpm then BitVec.allOnes 64 else 0#64)
  | .meivt => some (~~~0x3FF#64)
  | .mscause => some 0xF#64
  | _ => none

/-- The other CSRs through which a CSR's value is also read: its views and shadows (R95, R121, R122, R129, R147). -/
def shownBy : Csr → List Csr
  | .mie => [.sie]
  | .mip => [.sip]
  | .mideleg => [.sie, .sip]
  | .mcycle => [.cycle]
  | .minstret => [.instret]
  | .mhpmcounter i => [.hpmcounter i]
  | .meivt => [.meihap]
  | _ => []

/-! ## Sharing between harts (10_state R67) -/

/-- CSRs that hold one value of their own, which no other CSR's write changes. -/
def plainCsrs : List Csr :=
  [.mscratch, .mtvec, .mepc, .mcause, .mtval, .mcounteren, .satp, .stvec, .sepc, .scause, .stval, .sscratch, .medeleg,
    .mideleg]

/-- Two harts both have and list a CSR. -/
def shareCsrOf (a b : State) (r : Csr) : Prop :=
  r.num ∈ a.cfg.sharedWith b.cfg ∧ r.present a.cfg = true ∧ r.present b.cfg = true

/-! ## Running an instruction -/

/-- A step of `s` reaches the fetch of an instruction, with no execute trigger set. -/
structure State.StartsInstr (s : State) : Prop where
  admitted : s.cfg.admitted = true
  running : s.done = false
  notHalted : s.debugMode = false
  notStop : s.cfg.stopAddress ≠ some s.pc
  noHalt : s.debugHaltPending = false
  noNmi : s.nmiPending = false
  noIrq : s.beginStep.selectInterrupt = none
  quietAddr : s.quiet .execAddr = true
  quietOpcode : s.quiet .execOpcode = true

/-- The state in which a step executes the instruction it fetched. -/
def State.prepared (s : State) (bits : Bits) : State :=
  { s.beginStep with tick := s.tick + 2, ctx := { attempted := true, bits := bits } }

end Sys2Proof.Machine
end

