-- ==== Sys2Proof/Certificates/Slice0/Obligations.lean ====
section
/-! DEFINITION. The statements about this machine, from the numbered rules of spec/. Each docstring names the rules it
formalises. The predicates they share (`WritesReg`, `Loads`, `TakesException`, ...) are in Sys2Proof/Safety.lean. -/

open Sys2Proof Sys2Proof.Machine

/-! ## Encoding (30_encoding, 47_compressed) -/

/-- Words written out in the spec decode to the instructions it names, the compressed ones to their expansions (R293): R582 to R614's and
95_test_vectors' examples. -/
def Obligations.SpecWordsDecode : Prop :=
  decodeBits 0x00500093#32 = some (.addi 1#5 0#5 5#12)
    ∧ decodeBits 0x00A08113#32 = some (.addi 2#5 1#5 10#12)
    ∧ decodeBits 0x0FF0000F#32 = some (.fence 0#4 15#4 15#4)
    ∧ decodeBits 0x00000073#32 = some .ecall
    ∧ decodeBits 0x30200073#32 = some .mret
    ∧ decodeBits 0x7B200073#32 = some .dret
    ∧ decodeBits 0x00004144#32 = some (.cLw 1#3 2#3 4#7)
    ∧ decodeBits 0x0000713D#32 = some (.cAddi16sp 992#10)
    ∧ decodeBits 0x0000BFFD#32 = some (.cJ 4094#12)
    ∧ decodeBits 0x0000FC75#32 = some (.cBnez 0#3 508#9)
    ∧ decodeBits 0x0000EC2A#32 = some (.cSdsp 10#5 24#9)
    ∧ decodeBits 0x00000000#32 = none
    ∧ (decodeBits 0x00004505#32).map Instr.expansion = some (.addi 10#5 0#5 1#12)
    ∧ (decodeBits 0x0000852E#32).map Instr.expansion = some (.add 10#5 0#5 11#5)
    ∧ (decodeBits 0x00008082#32).map Instr.expansion = some (.jalr 0#5 1#5 0#12)
    ∧ (decodeBits 0x0000FC75#32).map Instr.expansion = some (.bne 8#5 0#5 0x1FFC#13)
    ∧ (decodeBits 0x0000713D#32).map Instr.expansion = some (.addi 2#5 2#5 0xFE0#12)

/-- Decoding the bytes of any well-formed instruction gives it back, with every operand, whatever bytes follow. -/
def Obligations.DecodeOfEncodeIsTheInstruction : Prop :=
  ∀ (i : Instr) (rest : List Byte), i.wellFormed = true → decode (encode i ++ rest) = .ok (i, rest)

/-- What decodes is a well-formed instruction, and the low two bits tell a compressed one (R250). No two words decode to
one instruction, but for the ignored fields of `fence` and `fence.i` (R283) and the upper half of a halfword's bits:
the decoder drops no bit. The expansion of a compressed instruction is a well-formed 32-bit one, and any other
instruction is its own (R293). -/
def Obligations.DecodedWordsAreEncodings : Prop :=
  (∀ (w : Bits) (i : Instr), decodeBits w = some i →
    i.wellFormed = true ∧ (i.ext = .c ↔ w.extractLsb' 0 2 ≠ 3#2))
  ∧ (∀ (w : Bits) (i : Instr), decodeBits w = some i →
    (i.ext = .c → i.bits = w &&& 0xFFFF#32) ∧ (i.ext ≠ .c → w.extractLsb' 0 7 ≠ 0x0F#7 → i.bits = w))
  ∧ (∀ (c : Config) (w : Bits) (pc : Word) (d : DecodedInstruction), decodedInstruction c w pc = .ok d →
    d.op.wellFormed = true ∧ d.op.ext ≠ .c ∧ d.width = (if w.extractLsb' 0 2 = 3#2 then 4 else 2) ∧ d.addr = pc
      ∧ d.bits = w ∧ (w.extractLsb' 0 2 = 3#2 → decodeBits w = some d.op)
      ∧ (w.extractLsb' 0 2 ≠ 3#2 → (decodeBits w).map Instr.expansion = some d.op))

/-! ## One step (40_step_protocol) -/

/-- When the fetched bits decode to `i`, the step is `exec i` on the state with the inputs sampled and a fresh step
context, followed by the end of the step (R302, R303). -/
def Obligations.StepRunsTheDecodedInstruction : Prop :=
  ∀ (s t : State) (bits : Bits) (len : Nat) (i : Instr), s.StartsInstr →
    s.beginStep.fetch s.pc = .ok bits len → decodeWith s.cfg bits = .ok i →
    exec i (s.prepared bits) = .next t → step s = .next t.closeStep

/-- When the bytes at the pc are those of a well-formed instruction, in executable memory that translation leaves in
place and PMP lets through, the fetch reads exactly its bits and its length (R208, R214). PMP is asked of the accesses
the fetch makes: with C the halfword at the pc and, for four bytes, the one after it; without C the word. An access PMP
refuses faults, with its address as the trap value. That the bytes may lie in
several regions, each of which permits its own, is the model's reading (log 18). -/
def Obligations.FetchReadsTheInstructionAtThePc : Prop :=
  ∀ (s : State) (i : Instr), i.wellFormed = true → s.cfg.hasExt i.ext = true →
    (s.cfg.extS = false ∨ s.priv = .m ∨ s.csr.satp.extractLsb' 60 4 = 0#4) →
    let pmp (a : Word) (n : Nat) := s.pmpAllows .fetch s.priv a n
    (pmp s.pc (if s.cfg.extC then 2 else 4) = false → s.fetch s.pc = .fault .instrAccess s.pc) ∧
    ((∀ k < i.len, let b := s.pc + BitVec.ofNat 64 k
      s.cfg.inClint b = false ∧ s.cfg.isMmr b.toNat = false ∧ s.cfg.permitted .fetch b.toNat = true
        ∧ (encode i)[k]? = some (s.mem.read b.toNat)) →
      pmp s.pc (if s.cfg.extC then 2 else 4) = true →
      let half := s.cfg.extC = true ∧ i.len = 4
      (half → pmp (s.pc + 2#64) 2 = false → s.fetch s.pc = .fault .instrAccess (s.pc + 2#64))
      ∧ ((half → pmp (s.pc + 2#64) 2 = true) → s.fetch s.pc = .ok i.bits i.len))

/-- Fetched bits that decode to nothing raise illegal instruction at the pc before any effect, with the bits as the
trap value (R280, R304, R662); here in M mode. -/
def Obligations.IllegalBitsTrapInMachineMode : Prop :=
  ∀ (s : State) (bits : Bits) (len : Nat) (e : DecodeError), s.StartsInstr → s.priv = .m → s.stepPending = false →
    s.beginStep.fetch s.pc = .ok bits len → decodeWith s.cfg bits = .error e →
    ∃ t, step s = .next t ∧ t.csr.mcause = 2#64 ∧ t.csr.mepc = s.pc &&& s.cfg.epcMask
      ∧ t.csr.mtval = (match s.cfg.illegalTval with | .instruction => bits.setWidth 64 | .zero => 0#64)
      ∧ t.pc = s.csr.mtvec &&& ~~~3#64 ∧ t.priv = .m ∧ t.x = s.x ∧ t.mem = s.mem
      ∧ t.csr.minstret = s.csr.minstret ∧ t.loadQueue = s.loadQueue ∧ t.storeQueue = s.storeQueue

/-- Every step of a hart whose configuration is admitted answers a next state, and never changes the configuration
(R8, R301, R322). -/
def Obligations.AdmittedStepAlwaysCompletes : Prop :=
  ∀ s : State, s.cfg.admitted = true → ∃ t, step s = .next t ∧ t.cfg = s.cfg

/-- The end of a step adds one to `mcycle`, and after a retired instruction one to `minstret`, unless inhibited or
written by the instruction (R720, R721). -/
def Obligations.CountersAdvanceAtTheEndOfAStep : Prop :=
  ∀ s : State,
    s.endStep.csr.mcycle
        = (if s.csr.mcountinhibit.getLsbD 0 = true ∨ 0xB00#12 ∈ s.ctx.csrWritten then s.csr.mcycle
           else s.csr.mcycle + 1#64)
      ∧ s.endStep.csr.minstret
        = (if s.ctx.retired = false ∨ s.csr.mcountinhibit.getLsbD 2 = true ∨ 0xB02#12 ∈ s.ctx.csrWritten
           then s.csr.minstret else s.csr.minstret + 1#64)

/-! ## Integer instructions (41_integer) -/

/-- R351 to R361: upper immediates, arithmetic and shifts with an immediate. -/
def Obligations.ImmediateInstructionResults : Prop :=
  (∀ (s : State) (rd rs1 : Reg) (imm : BitVec 12), let a := s.readX rs1; let m := imm.signExtend 64
    WritesReg (.addi rd rs1 imm) s 4 rd (a + m)
      ∧ WritesReg (.slti rd rs1 imm) s 4 rd (if a.toInt < m.toInt then 1#64 else 0#64)
      ∧ WritesReg (.sltiu rd rs1 imm) s 4 rd (if a.toNat < m.toNat then 1#64 else 0#64)
      ∧ WritesReg (.xori rd rs1 imm) s 4 rd (a ^^^ m)
      ∧ WritesReg (.ori rd rs1 imm) s 4 rd (a ||| m)
      ∧ WritesReg (.andi rd rs1 imm) s 4 rd (a &&& m))
  ∧ ((∀ (s : State) (rd : Reg) (imm : BitVec 20),
    WritesReg (.lui rd imm) s 4 rd ((imm ++ 0#12).signExtend 64)
      ∧ WritesReg (.auipc rd imm) s 4 rd (s.pc + (imm ++ 0#12).signExtend 64))
  ∧ ∀ (s : State) (rd rs1 : Reg) (sh : BitVec 6), let a := s.readX rs1
    WritesReg (.slli rd rs1 sh) s 4 rd (a <<< sh.toNat)
      ∧ WritesReg (.srli rd rs1 sh) s 4 rd (a >>> sh.toNat)
      ∧ WritesReg (.srai rd rs1 sh) s 4 rd (a.sshiftRight sh.toNat))

/-- R362 to R371. -/
def Obligations.RegisterArithmeticResults : Prop :=
  ∀ (s : State) (rd rs1 rs2 : Reg), let a := s.readX rs1; let b := s.readX rs2
    WritesReg (.add rd rs1 rs2) s 4 rd (a + b) ∧ WritesReg (.sub rd rs1 rs2) s 4 rd (a - b)
      ∧ WritesReg (.sll rd rs1 rs2) s 4 rd (a <<< (b.toNat % 64))
      ∧ WritesReg (.slt rd rs1 rs2) s 4 rd (if a.toInt < b.toInt then 1#64 else 0#64)
      ∧ WritesReg (.sltu rd rs1 rs2) s 4 rd (if a.toNat < b.toNat then 1#64 else 0#64)
      ∧ WritesReg (.xor rd rs1 rs2) s 4 rd (a ^^^ b)
      ∧ WritesReg (.srl rd rs1 rs2) s 4 rd (a >>> (b.toNat % 64))
      ∧ WritesReg (.sra rd rs1 rs2) s 4 rd (a.sshiftRight (b.toNat % 64))
      ∧ WritesReg (.or rd rs1 rs2) s 4 rd (a ||| b) ∧ WritesReg (.and rd rs1 rs2) s 4 rd (a &&& b)

/-- R372 to R380: a 32-bit result of the low 32 bits, sign-extended (R381). -/
def Obligations.WordOperationResults : Prop :=
  (∀ (s : State) (rd rs1 : Reg) (imm : BitVec 12),
    WritesReg (.addiw rd rs1 imm) s 4 rd (((s.readX rs1).setWidth 32 + imm.signExtend 32).signExtend 64))
  ∧ (∀ (s : State) (rd rs1 : Reg) (sh : BitVec 5), let a := (s.readX rs1).setWidth 32
    WritesReg (.slliw rd rs1 sh) s 4 rd ((a <<< sh.toNat).signExtend 64)
      ∧ WritesReg (.srliw rd rs1 sh) s 4 rd ((a >>> sh.toNat).signExtend 64)
      ∧ WritesReg (.sraiw rd rs1 sh) s 4 rd ((a.sshiftRight sh.toNat).signExtend 64))
  ∧ ∀ (s : State) (rd rs1 rs2 : Reg), let a := (s.readX rs1).setWidth 32; let b := (s.readX rs2).setWidth 32
    let k := (s.readX rs2).toNat % 32
    WritesReg (.addw rd rs1 rs2) s 4 rd ((a + b).signExtend 64)
      ∧ WritesReg (.subw rd rs1 rs2) s 4 rd ((a - b).signExtend 64)
      ∧ WritesReg (.sllw rd rs1 rs2) s 4 rd ((a <<< k).signExtend 64)
      ∧ WritesReg (.srlw rd rs1 rs2) s 4 rd ((a >>> k).signExtend 64)
      ∧ WritesReg (.sraw rd rs1 rs2) s 4 rd ((a.sshiftRight k).signExtend 64)

/-! ## Multiply and divide (42_muldiv) -/

/-- R401 to R404, R409: products on unbounded integers, then cut. -/
def Obligations.MultiplicationResults : Prop :=
  ∀ (s : State) (rd rs1 rs2 : Reg), let a := s.readX rs1; let b := s.readX rs2
    WritesReg (.mul rd rs1 rs2) s 4 rd (BitVec.ofInt 64 (a.toInt * b.toInt))
      ∧ WritesReg (.mulh rd rs1 rs2) s 4 rd (BitVec.ofInt 64 (a.toInt * b.toInt / 2 ^ 64))
      ∧ WritesReg (.mulhsu rd rs1 rs2) s 4 rd (BitVec.ofInt 64 (a.toInt * (b.toNat : Int) / 2 ^ 64))
      ∧ WritesReg (.mulhu rd rs1 rs2) s 4 rd (BitVec.ofNat 64 (a.toNat * b.toNat / 2 ^ 64))
      ∧ WritesReg (.mulw rd rs1 rs2) s 4 rd ((a.setWidth 32 * b.setWidth 32).signExtend 64)

/-- R405 to R408: division rounds toward zero, and its two corners have fixed results (R414). -/
def Obligations.DivisionResults : Prop :=
  ∀ (s : State) (rd rs1 rs2 : Reg), let a := s.readX rs1; let b := s.readX rs2
    let corner := a = BitVec.intMin 64 ∧ b = -1#64
    WritesReg (.div rd rs1 rs2) s 4 rd
        (if b = 0#64 then -1#64 else if corner then a else BitVec.ofInt 64 (a.toInt.tdiv b.toInt))
      ∧ WritesReg (.divu rd rs1 rs2) s 4 rd (if b = 0#64 then -1#64 else BitVec.ofNat 64 (a.toNat / b.toNat))
      ∧ WritesReg (.rem rd rs1 rs2) s 4 rd
        (if b = 0#64 then a else if corner then 0#64 else BitVec.ofInt 64 (a.toInt.tmod b.toInt))
      ∧ WritesReg (.remu rd rs1 rs2) s 4 rd (if b = 0#64 then a else BitVec.ofNat 64 (a.toNat % b.toNat))

/-- R410 to R413: the 32-bit forms, their results sign-extended (R415). -/
def Obligations.WordDivisionResults : Prop :=
  ∀ (s : State) (rd rs1 rs2 : Reg), let a := (s.readX rs1).setWidth 32; let b := (s.readX rs2).setWidth 32
    let corner := a = BitVec.intMin 32 ∧ b = -1#32
    WritesReg (.divw rd rs1 rs2) s 4 rd
        ((if b = 0#32 then -1#32 else if corner then a else BitVec.ofInt 32 (a.toInt.tdiv b.toInt)).signExtend 64)
      ∧ WritesReg (.divuw rd rs1 rs2) s 4 rd
        ((if b = 0#32 then -1#32 else BitVec.ofNat 32 (a.toNat / b.toNat)).signExtend 64)
      ∧ WritesReg (.remw rd rs1 rs2) s 4 rd
        ((if b = 0#32 then a else if corner then 0#32 else BitVec.ofInt 32 (a.toInt.tmod b.toInt)).signExtend 64)
      ∧ WritesReg (.remuw rd rs1 rs2) s 4 rd
        ((if b = 0#32 then a else BitVec.ofNat 32 (a.toNat % b.toNat)).signExtend 64)

/-! ## Compressed register instructions (47_compressed) -/

/-- R581, R588 to R601, R605, R609, R612: each compressed register instruction has its expansion's result, with width 2
(R580). -/
def Obligations.CompressedArithmeticResults : Prop :=
  ((∀ (s : State) (rd : CReg) (u : BitVec 10),
    WritesReg (.cAddi4spn rd u) s 2 (0b01#2 ++ rd) (s.readX 2#5 + u.setWidth 64))
  ∧ (∀ (s : State) (u : BitVec 10), WritesReg (.cAddi16sp u) s 2 2#5 (s.readX 2#5 + u.signExtend 64))
  ∧ (∀ (s : State) (rd : Reg) (m : BitVec 6),
    WritesReg (.cAddi rd m) s 2 rd (s.readX rd + m.signExtend 64)
      ∧ WritesReg (.cAddiw rd m) s 2 rd (((s.readX rd).setWidth 32 + m.signExtend 32).signExtend 64)
      ∧ WritesReg (.cLi rd m) s 2 rd (m.signExtend 64)
      ∧ WritesReg (.cLui rd m) s 2 rd ((m ++ 0#12).signExtend 64)
      ∧ WritesReg (.cSlli rd m) s 2 rd (s.readX rd <<< m.toNat))
  ∧ ∀ (s : State) (rd : CReg) (m : BitVec 6), let a := s.readX (0b01#2 ++ rd)
    WritesReg (.cSrli rd m) s 2 (0b01#2 ++ rd) (a >>> m.toNat)
      ∧ WritesReg (.cSrai rd m) s 2 (0b01#2 ++ rd) (a.sshiftRight m.toNat)
      ∧ WritesReg (.cAndi rd m) s 2 (0b01#2 ++ rd) (a &&& m.signExtend 64))
  ∧ ((∀ (s : State) (rd rs2 : Reg), WritesReg (.cMv rd rs2) s 2 rd (s.readX rs2)
    ∧ WritesReg (.cAdd rd rs2) s 2 rd (s.readX rd + s.readX rs2))
  ∧ ∀ (s : State) (rd rs2 : CReg), let d : Reg := 0b01#2 ++ rd; let a := s.readX d; let b := s.readX (0b01#2 ++ rs2)
    WritesReg (.cSub rd rs2) s 2 d (a - b) ∧ WritesReg (.cXor rd rs2) s 2 d (a ^^^ b)
      ∧ WritesReg (.cOr rd rs2) s 2 d (a ||| b) ∧ WritesReg (.cAnd rd rs2) s 2 d (a &&& b)
      ∧ WritesReg (.cSubw rd rs2) s 2 d ((a.setWidth 32 - b.setWidth 32).signExtend 64)
      ∧ WritesReg (.cAddw rd rs2) s 2 d ((a.setWidth 32 + b.setWidth 32).signExtend 64))

/-! ## Instructions that only move on, and control transfer (43_control_transfer, 44_load_store, 46_system) -/

/-- R474, R475, R553, R587. That `fence` orders nothing more is the spec's own inference (R474, derived from R223 and
R226). -/
def Obligations.NoOperationsOnlyMoveOn : Prop :=
  ∀ (s : State) (fm pred succ : BitVec 4) (imm : BitVec 6),
    OnlyMovesOn (.fence fm pred succ) s 4 ∧ OnlyMovesOn .fenceI s 4 ∧ OnlyMovesOn (.cNop imm) s 2
      ∧ (s.priv = .m ∨ s.cfg.extU = false ∨ s.csr.mstatus.getLsbD 21 = false → OnlyMovesOn .wfi s 4)
      ∧ (¬ (s.priv = .m ∨ s.cfg.extU = false ∨ s.csr.mstatus.getLsbD 21 = false) →
          TakesException .wfi s .illegal
            (match s.cfg.illegalTval with | .instruction => 0x10500073#64 | .zero => 0#64))

/-- R431, R432, R602, R608, R611: a jump to an aligned target goes there and links; to a misaligned one it raises
cause 0 with the target as the trap value and writes no register (R430). -/
def Obligations.JumpsGoToTheirTargets : Prop :=
  ∀ (s : State) (rd rs1 : Reg) (j : BitVec 21) (imm : BitVec 12) (cj : BitVec 12),
    let ok (t : Word) := s.cfg.extC = true ∨ t.getLsbD 1 = false
    let go (i : Instr) (len : Nat) (r : Reg) (t : Word) :=
      (ok t → JumpsTo i s len r t) ∧ (¬ ok t → TakesException i s .instrMisaligned t)
    go (.jal rd j) 4 rd (s.pc + j.signExtend 64)
      ∧ go (.jalr rd rs1 imm) 4 rd ((s.readX rs1 + imm.signExtend 64) &&& ~~~1#64)
      ∧ go (.cJ cj) 2 0#5 (s.pc + cj.signExtend 64)
      ∧ go (.cJr rs1) 2 0#5 (s.readX rs1 &&& ~~~1#64)
      ∧ go (.cJalr rs1) 2 1#5 (s.readX rs1 &&& ~~~1#64)

/-- R433 to R438, R441, R603, R604: a branch whose condition holds goes to an aligned target, or raises cause 0 on a
misaligned one; otherwise it moves on. -/
def Obligations.BranchesFollowTheirConditions : Prop :=
  ∀ (s : State) (rs1 rs2 : Reg) (off : BitVec 13) (r : CReg) (coff : BitVec 9),
    let a := s.readX rs1; let b := s.readX rs2; let c := s.readX (0b01#2 ++ r)
    let go (i : Instr) (len : Nat) (cond : Prop) (t : Word) :=
      (¬ cond → OnlyMovesOn i s len)
        ∧ (cond → s.cfg.extC = true ∨ t.getLsbD 1 = false → BranchesTo i s t)
        ∧ (cond → ¬ (s.cfg.extC = true ∨ t.getLsbD 1 = false) → TakesException i s .instrMisaligned t)
    let t := s.pc + off.signExtend 64; let u := s.pc + coff.signExtend 64
    go (.beq rs1 rs2 off) 4 (a = b) t ∧ go (.bne rs1 rs2 off) 4 (a ≠ b) t
      ∧ go (.blt rs1 rs2 off) 4 (a.toInt < b.toInt) t ∧ go (.bge rs1 rs2 off) 4 (b.toInt ≤ a.toInt) t
      ∧ go (.bltu rs1 rs2 off) 4 (a.toNat < b.toNat) t ∧ go (.bgeu rs1 rs2 off) 4 (b.toNat ≤ a.toNat) t
      ∧ go (.cBeqz r coff) 2 (c = 0#64) u ∧ go (.cBnez r coff) 2 (c ≠ 0#64) u

/-! ## Loads and stores (44_load_store, 20_memory) -/

/-- R462 to R468, and with width 2 (R580) R582, R583, R606, R607, with the frame and the load queue (R801, R805); loads
with a load trigger set are left out. -/
def Obligations.LoadResults : Prop :=
  ∀ (s : State) (rd rs1 : Reg) (imm : BitVec 12) (c1 c2 : CReg) (u7 : BitVec 7) (u8 : BitVec 8) (u9 : BitVec 9),
    let a := s.readX rs1 + imm.signExtend 64
    let d : Reg := 0b01#2 ++ c1; let b := s.readX (0b01#2 ++ c2)
    let s8 (v : Word) : Word := (v.setWidth 8).signExtend 64
    let s16 (v : Word) : Word := (v.setWidth 16).signExtend 64
    let s32 (v : Word) : Word := (v.setWidth 32).signExtend 64
    Loads (.lb rd rs1 imm) s 4 1 rd a s8 ∧ Loads (.lh rd rs1 imm) s 4 2 rd a s16
      ∧ Loads (.lw rd rs1 imm) s 4 4 rd a s32 ∧ Loads (.ld rd rs1 imm) s 4 8 rd a id
      ∧ Loads (.lbu rd rs1 imm) s 4 1 rd a id ∧ Loads (.lhu rd rs1 imm) s 4 2 rd a id
      ∧ Loads (.lwu rd rs1 imm) s 4 4 rd a id
      ∧ Loads (.cLw c1 c2 u7) s 2 4 d (b + u7.setWidth 64) s32
      ∧ Loads (.cLd c1 c2 u8) s 2 8 d (b + u8.setWidth 64) id
      ∧ Loads (.cLwsp rd u8) s 2 4 rd (s.readX 2#5 + u8.setWidth 64) s32
      ∧ Loads (.cLdsp rd u9) s 2 8 rd (s.readX 2#5 + u9.setWidth 64) id

/-- R469 to R472, and with width 2 (R580) R584, R585, R613, R614, with the frame over every byte, the CLINT (R710, R713)
and the store queue (R802); what the console gets is the model's reading (log 10); stores with a store trigger set are
left out. -/
def Obligations.StoreResults : Prop :=
  ∀ (s : State) (rs1 rs2 : Reg) (imm : BitVec 12) (c1 c2 : CReg) (u7 : BitVec 7) (u8 : BitVec 8) (u9 : BitVec 9),
    let a := s.readX rs1 + imm.signExtend 64; let v := s.readX rs2
    let b := s.readX (0b01#2 ++ c1); let w := s.readX (0b01#2 ++ c2)
    Stores (.sb rs1 rs2 imm) s 4 1 a v ∧ Stores (.sh rs1 rs2 imm) s 4 2 a v
      ∧ Stores (.sw rs1 rs2 imm) s 4 4 a v ∧ Stores (.sd rs1 rs2 imm) s 4 8 a v
      ∧ Stores (.cSw c1 c2 u7) s 2 4 (b + u7.setWidth 64) w
      ∧ Stores (.cSd c1 c2 u8) s 2 8 (b + u8.setWidth 64) w
      ∧ Stores (.cSwsp rs2 u8) s 2 4 (s.readX 2#5 + u8.setWidth 64) v
      ∧ Stores (.cSdsp rs2 u9) s 2 8 (s.readX 2#5 + u9.setWidth 64) v

/-- R476, R477, R582 to R585, R606, R607, R613, R614: a load or store whose checks fail takes their exception with the effective address as the trap value,
and changes no register and no memory. -/
def Obligations.FailedAccessesTakeTheirException : Prop :=
  ∀ (s : State) (rd rs1 rs2 : Reg) (imm : BitVec 12) (c1 c2 : CReg) (u7 : BitVec 7) (u8 : BitVec 8) (u9 : BitVec 9)
    (e : Exc), let a := s.readX rs1 + imm.signExtend 64
    let bad (i : Instr) (acc : Acc) (n : Nat) (b : Word) := s.locate acc b n = .error e → TakesException i s e b
    let c (r : CReg) := s.readX (0b01#2 ++ r); let sp := s.readX 2#5
    (s.quiet .loadAddr = true →
      (bad (.cLw c1 c2 u7) .load 4 (c c2 + u7.setWidth 64) ∧ bad (.cLd c1 c2 u8) .load 8 (c c2 + u8.setWidth 64)
        ∧ bad (.cLwsp rd u8) .load 4 (sp + u8.setWidth 64) ∧ bad (.cLdsp rd u9) .load 8 (sp + u9.setWidth 64)) ∧
      (s.locate .load a 1 = .error e → TakesException (.lb rd rs1 imm) s e a ∧ TakesException (.lbu rd rs1 imm) s e a)
      ∧ (s.locate .load a 2 = .error e → TakesException (.lh rd rs1 imm) s e a ∧ TakesException (.lhu rd rs1 imm) s e a)
      ∧ (s.locate .load a 4 = .error e → TakesException (.lw rd rs1 imm) s e a ∧ TakesException (.lwu rd rs1 imm) s e a)
      ∧ (s.locate .load a 8 = .error e → TakesException (.ld rd rs1 imm) s e a))
    ∧ (s.quiet .storeAddr = true → s.quiet .storeData = true →
      (bad (.cSw c1 c2 u7) .store 4 (c c1 + u7.setWidth 64) ∧ bad (.cSd c1 c2 u8) .store 8 (c c1 + u8.setWidth 64)
        ∧ bad (.cSwsp rs2 u8) .store 4 (sp + u8.setWidth 64) ∧ bad (.cSdsp rs2 u9) .store 8 (sp + u9.setWidth 64)) ∧
      (s.locate .store a 1 = .error e → TakesException (.sb rs1 rs2 imm) s e a)
      ∧ (s.locate .store a 2 = .error e → TakesException (.sh rs1 rs2 imm) s e a)
      ∧ (s.locate .store a 4 = .error e → TakesException (.sw rs1 rs2 imm) s e a)
      ∧ (s.locate .store a 8 = .error e → TakesException (.sd rs1 rs2 imm) s e a))

/-- R212: with `Trap` a misaligned load or store raises the misaligned exception before any other check; with `Split` it
raises an access fault when a byte is in a non-idempotent region. R205, R211, R215, R216: without translation, an access
whose parts, by 4 KiB page, PMP lets through and whose bytes are all backed with the needed permission reaches exactly
its bytes; one with a part that PMP does not let through raises an access fault. That the bytes may lie in several
regions, each of which permits its own, is the model's reading (log 18). -/
def Obligations.AccessCheckRules : Prop :=
  (∀ (s : State) (acc : Acc) (a : Word) (n : Nat), acc ≠ .fetch → a.toNat % n ≠ 0 →
    (s.cfg.misalignedData = .trap → s.locate acc a n = .error acc.misaligned)
    ∧ (s.cfg.misalignedData = .split → ∀ ps, s.locateParts acc (s.effPriv acc) (pageParts a n) = .ok ps →
        (∃ p ∈ ps, s.cfg.nonIdempotent p = true) → s.locate acc a n = .error acc.accessFault))
  ∧ (∀ (s : State) (acc : Acc) (a : Word) (n : Nat), acc ≠ .fetch → n ∈ [1, 2, 4, 8] →
    (a.toNat % n = 0 ∨ s.cfg.misalignedData = .split) →
    (s.cfg.extS = false ∨ s.effPriv acc = .m ∨ s.csr.satp.extractLsb' 60 4 = 0#4) →
    let room := 4096 - a.toNat % 4096
    let allowed (b : Word) (k : Nat) : Bool := s.pmpAllows acc (s.effPriv acc) b k
    let allAllowed : Bool := if n ≤ room then allowed a n else allowed a room && allowed (a + BitVec.ofNat 64 room) (n - room)
    (allAllowed = false → s.locate acc a n = .error acc.accessFault)
    ∧ (allAllowed = true → (∀ k < n, let b := a + BitVec.ofNat 64 k
        s.cfg.inClint b = false ∧ s.cfg.isMmr b.toNat = false ∧ s.cfg.permitted acc b.toNat = true) →
      s.locate acc a n = .ok ((List.range n).map fun k => a + BitVec.ofNat 64 k)))

/-- R200, R208, R210: a read after a write gives the byte written there, and elsewhere what stood there; the canonical
form is kept, so two memories that read the same everywhere are equal; the bytes of a value, least significant first,
assemble to its low bytes. -/
def Obligations.MemoryAndByteOrderLaws : Prop :=
  ((∀ (m : Memory) (a b : Nat) (v : Byte), m.wf →
    (m.write a v).wf ∧ (m.write a v).read b = if b = a then v else m.read b)
  ∧ ∀ m n : Memory, m.wf → n.wf → (∀ a, m.read a = n.read a) → m = n)
  ∧ (∀ (n : Nat) (v : Word), n ≤ 8 → leValue (leBytes n v) = (v.setWidth (8 * n)).setWidth 64 ∧
    ∀ k < n, (leBytes n v)[k]? = some (v.extractLsb' (8 * k) 8))

/-! ## CSR instructions (45_csr_access) -/

/-- R501, R503 to R508: the six CSR instructions, when allowed. R65, R510: what a write stores in a CSR that has no further
legalisation rule, and in `tdata2` (R137, R757): each bit of the write mask takes the bit written, and no other CSR
reads differently but the views and shadows of the one written. That `dmode` protects `tdata2` from an instruction also
when `debugMode` is true, which only a what-if meets, is the model's reading of R757 (log 22). -/
def Obligations.CsrInstructionResults : Prop :=
  (∀ (s : State) (rd rs1 : Reg) (uimm : BitVec 5) (n : CsrNum), let m := s.readX rs1; let u := uimm.setWidth 64
    let w := rs1 != 0#5; let wi := uimm != 0#5
    (¬ csrDenied s n true → csrDone (.csrrw rd rs1 n) s n rd (fun _ => some m)
      ∧ csrDone (.csrrwi rd uimm n) s n rd (fun _ => some u))
    ∧ (¬ csrDenied s n w → csrDone (.csrrs rd rs1 n) s n rd (fun old => if w then some (old ||| m) else none)
      ∧ csrDone (.csrrc rd rs1 n) s n rd (fun old => if w then some (old &&& ~~~m) else none))
    ∧ (¬ csrDenied s n wi → csrDone (.csrrsi rd uimm n) s n rd (fun old => if wi then some (old ||| u) else none)
      ∧ csrDone (.csrrci rd uimm n) s n rd (fun old => if wi then some (old &&& ~~~u) else none)))
  ∧ (∀ (s : State) (r : Csr) (v mask : Word), plainMask s.cfg r = some mask → let t := s.csrStore false r v
    t.csrRead r = (s.csrRead r &&& ~~~mask) ||| (v &&& mask)
      ∧ (∀ q, q ≠ r → q ∉ shownBy r → t.csrRead q = s.csrRead q) ∧ t = { s with csr := t.csr })
  ∧ (∀ (s : State) (v : Word) (old : TrigSlot), s.selectedSlot = some old → let t := s.csrStore false .tdata2 v
    (trigDmode old.tdata1 = true → t = s)
    ∧ (trigDmode old.tdata1 = false →
      t.csrRead .tdata2 = v ∧ (∀ k, k ≠ s.csr.tselect.toNat → t.trig[k]? = s.trig[k]?)
        ∧ t.trig[s.csr.tselect.toNat]? = some { old with tdata2 := v } ∧ t = { s with trig := t.trig }))

/-- R500: when denied, each raises illegal instruction with its own bits as the trap value (R662). -/
def Obligations.DeniedCsrInstructionsAreIllegal : Prop :=
  ∀ (s : State) (rd rs1 : Reg) (uimm : BitVec 5) (n : CsrNum),
    let tv (i : Instr) : Word := match s.cfg.illegalTval with | .instruction => i.bits.setWidth 64 | .zero => 0#64
    let bad (i : Instr) : Prop := TakesException i s .illegal (tv i)
    (csrDenied s n true → bad (.csrrw rd rs1 n) ∧ bad (.csrrwi rd uimm n))
    ∧ (csrDenied s n (rs1 != 0#5) → bad (.csrrs rd rs1 n) ∧ bad (.csrrc rd rs1 n))
    ∧ (csrDenied s n (uimm != 0#5) → bad (.csrrsi rd uimm n) ∧ bad (.csrrci rd uimm n))

/-- R65, R70, R71: a write of `mstatus` changes only the configuration's writable bits, each to the bit written, but an MPP
that names no mode of the configuration leaves MPP as it was. R121, R122, R129: the supervisor views read and write the
machine registers under their masks. -/
def Obligations.StatusWriteAndViewRules : Prop :=
  (∀ (s : State) (v : Word), let t := s.csrStore false .mstatus v
    let mask : Word := 0x88#64 ||| (if s.cfg.extU then 0x221800#64 else 0#64) ||| (if s.cfg.extS then 0x5C0122#64 else 0#64)
    (∀ j, j ≠ 11 → j ≠ 12 → t.csr.mstatus.getLsbD j = if mask.getLsbD j then v.getLsbD j else s.csr.mstatus.getLsbD j)
    ∧ (s.cfg.extU = true → (v.extractLsb' 11 2 = 3#2 ∨ v.extractLsb' 11 2 = 0#2 ∨ (v.extractLsb' 11 2 = 1#2 ∧ s.cfg.extS = true)) →
        mppOf t.csr.mstatus = v.extractLsb' 11 2)
    ∧ (v.extractLsb' 11 2 = 2#2 ∨ (v.extractLsb' 11 2 = 1#2 ∧ s.cfg.extS = false) → s.cfg.extU = true →
        mppOf t.csr.mstatus = mppOf s.csr.mstatus)
    ∧ (s.cfg.extU = false → mppOf s.csr.mstatus = 3#2 → mppOf t.csr.mstatus = 3#2)
    ∧ t = { s with csr := { s.csr with mstatus := t.csr.mstatus } })
  ∧ (∀ (s : State) (v : Word) (j : Nat),
    let put (old mask : Word) : Bool := if mask.getLsbD j then v.getLsbD j else old.getLsbD j
    s.csrRead .sstatus = s.csr.mstatus &&& 0x80000003000DE122#64
      ∧ s.csrRead .sie = s.csr.mie &&& s.csr.mideleg
      ∧ s.csrRead .sip = s.csr.mip &&& s.csr.mideleg
      ∧ (s.csrStore false .sstatus v).csr.mstatus.getLsbD j = put s.csr.mstatus 0xC0122#64
      ∧ (s.csrStore false .sie v).csr.mie.getLsbD j = put s.csr.mie (s.csr.mideleg &&& 0x222#64)
      ∧ (s.csrStore false .sip v).csr.mip.getLsbD j = put s.csr.mip (s.csr.mideleg &&& 0x2#64))

/-- R90, R91: a PMP configuration write goes entry by entry, 0 to 7 in `pmpcfg0` and 8 to 15 in `pmpcfg2`: a locked entry keeps its byte, an entry that does not exist
reads 0, and R = 0 with W = 1 is stored with W = 0. R92: `pmpaddr` of a locked entry, or below a locked TOR entry, keeps
its value; otherwise bits 53:0 are written. -/
def Obligations.PmpRegisterWriteRules : Prop :=
  (∀ (s : State) (v : Word) (first i : Nat) (r : Csr), (first = 0 ∧ r = .pmpcfg0) ∨ (first = 8 ∧ r = .pmpcfg2) → i < 8 →
    let old := (s.csrRead r).extractLsb' (8 * i) 8; let put := v.extractLsb' (8 * i) 8
    let new := ((s.csrStore false r v).csrRead r).extractLsb' (8 * i) 8
    (s.cfg.pmpEntries ≤ first + i → new = 0#8)
    ∧ (first + i < s.cfg.pmpEntries → old.getLsbD 7 = true → new = old)
    ∧ (first + i < s.cfg.pmpEntries → old.getLsbD 7 = false →
        (∀ j, j ≠ 1 → new.getLsbD j = (put.getLsbD j && (0x9F#8).getLsbD j))
        ∧ new.getLsbD 1 = (put.getLsbD 1 && put.getLsbD 0)))
  ∧ (∀ (s : State) (v : Word) (i : Fin 16), let cfg (k : Nat) : Byte := s.csr.pmpCfgByte k
    let stuck := (cfg i.val).getLsbD 7 = true ∨
      (i.val + 1 < s.cfg.pmpEntries ∧ (cfg (i.val + 1)).getLsbD 7 = true ∧ (cfg (i.val + 1)).extractLsb' 3 2 = 1#2)
    let new := (s.csrStore false (.pmpaddr i) v).csr.pmpaddr[i.val]
    (stuck → new = s.csr.pmpaddr[i.val])
    ∧ (¬ stuck → ∀ j, new.getLsbD j = if j < 54 then v.getLsbD j else s.csr.pmpaddr[i.val].getLsbD j))

/-- R130, R135, R144: `satp` ignores a write of an unsupported mode, `tselect` one of a slot that does not exist, and a
write of `mdeau` only unlocks `mdseac`. -/
def Obligations.SpecialWritesOfSatpTselectMdeau : Prop :=
  ∀ (s : State) (v : Word) (byHost : Bool),
    (v.extractLsb' 60 4 ∉ s.cfg.satpModes → (s.csrStore byHost .satp v).csr.satp = s.csr.satp)
    ∧ (v.extractLsb' 60 4 ∈ s.cfg.satpModes → s.cfg.asidlen ≤ 16 → ∀ j, j < 64 →
        (s.csrStore byHost .satp v).csr.satp.getLsbD j
          = (v.getLsbD j && decide (j < 44 ∨ (44 ≤ j ∧ j < 44 + s.cfg.asidlen) ∨ 60 ≤ j)))
    ∧ (s.csrStore byHost .tselect v).csr.tselect = (if v.toNat < s.cfg.numTriggers then v else s.csr.tselect)
    ∧ s.csrStore byHost .mdeau v = { s with mdseacLocked := false }

/-- R752 to R758: what an instruction's write of `tdata1` leaves in the selected slot: a slot with `dmode` is not
changed; a supported type is taken with `dmode` 0 and action 0, so no instruction arms a trigger that enters debug
mode; type 0 disables the slot; any other type changes nothing. Type 2 takes hit, select, timing, the execute, load and
store bits, an `m` bit, the mode bits of the modes that exist, a legal match (an illegal one keeps that of a slot of type
2) and the chain bit where R758 allows it; type 3 takes hit, count and the mode bits; every other bit is fixed. No other
slot and nothing else changes. This holds also when `debugMode` is true, which only a what-if meets (the model's reading
of R757, log 22). -/
def Obligations.InstructionsCannotArmDebugTriggers : Prop :=
  ∀ (s : State) (v : Word) (old : TrigSlot), s.selectedSlot = some old →
    let after := s.csrStore false .tdata1 v
    let slot := s.csr.tselect.toNat
    after = { s with trig := after.trig } ∧ (∀ k, k ≠ slot → after.trig[k]? = s.trig[k]?) ∧
    ∃ new, after.selectedSlot = some new ∧ new.tdata2 = old.tdata2
      ∧ (trigDmode old.tdata1 = true → new = old)
      ∧ (trigDmode old.tdata1 = false →
        (trigType v = 2#4 → trigType new.tdata1 = 2#4 ∧ trigDmode new.tdata1 = false
          ∧ new.tdata1.extractLsb' 53 6 = 63#6 ∧ new.tdata1.extractLsb' 21 32 = 0#32
          ∧ new.tdata1.extractLsb' 18 3 = v.extractLsb' 18 3
          ∧ new.tdata1.extractLsb' 12 6 = 0#6
          ∧ new.tdata1.getLsbD 11 = (v.getLsbD 11 && decide (slot + 1 ≠ s.cfg.numTriggers)
              && !(s.cfg.triggerEvenOdd && decide (slot % 2 = 1)))
          ∧ new.tdata1.extractLsb' 7 4 = (if (v.extractLsb' 7 4).toNat ≤ 5 then v.extractLsb' 7 4
              else if trigType old.tdata1 = 2#4 then old.tdata1.extractLsb' 7 4 else 0#4)
          ∧ new.tdata1.getLsbD 6 = v.getLsbD 6 ∧ new.tdata1.getLsbD 5 = false
          ∧ new.tdata1.getLsbD 4 = (s.cfg.extS && v.getLsbD 4) ∧ new.tdata1.getLsbD 3 = (s.cfg.extU && v.getLsbD 3)
          ∧ new.tdata1.extractLsb' 0 3 = v.extractLsb' 0 3)
        ∧ (trigType v = 3#4 → trigType new.tdata1 = 3#4 ∧ trigDmode new.tdata1 = false
          ∧ new.tdata1.extractLsb' 25 34 = 0#34
          ∧ new.tdata1.extractLsb' 9 16 = v.extractLsb' 9 16 ∧ new.tdata1.getLsbD 8 = false
          ∧ new.tdata1.getLsbD 7 = (s.cfg.extS && v.getLsbD 7) ∧ new.tdata1.getLsbD 6 = (s.cfg.extU && v.getLsbD 6)
          ∧ new.tdata1.extractLsb' 0 6 = 0#6)
        ∧ (trigType v = 0#4 → new.tdata1 = 0#64)
        ∧ (trigType v ≠ 0#4 → trigType v ≠ 2#4 → trigType v ≠ 3#4 → new = old))

/-! ## System instructions (46_system) -/

/-- R550, R551, R557, R610: environment calls, breakpoints and `dret` take their exception. -/
def Obligations.SystemCallsAndBreakpointsTrap : Prop :=
  ∀ s : State,
    let off := (s.priv = .m ∧ s.csr.dcsr.getLsbD 15 = false) ∨ (s.priv = .s ∧ s.csr.dcsr.getLsbD 13 = false)
      ∨ (s.priv = .u ∧ s.csr.dcsr.getLsbD 12 = false)
    TakesException .ecall s (match s.priv with | .u => .ecallU | .s => .ecallS | .m => .ecallM) 0#64
      ∧ (off → TakesException .ebreak s .breakpoint s.pc ∧ TakesException .cEbreak s .breakpoint s.pc)
      ∧ TakesException .dret s .illegal (match s.cfg.illegalTval with | .instruction => 0x7B200073#64 | .zero => 0#64)

/-- R551, R782: with the `dcsr` bit of the current mode set, a breakpoint instruction halts the hart instead, which
ends a pending single step or halt request (R780); nothing else changes but the step context. -/
def Obligations.ConfiguredBreakpointsEnterDebugMode : Prop :=
  ∀ (s : State) (i : Instr), (i = .ebreak ∨ i = .cEbreak) →
    ((s.priv = .m ∧ s.csr.dcsr.getLsbD 15 = true) ∨ (s.priv = .s ∧ s.csr.dcsr.getLsbD 13 = true)
      ∨ (s.priv = .u ∧ s.csr.dcsr.getLsbD 12 = true)) →
    ∃ t, exec i s = .next t ∧ t.debugMode = true ∧ t.csr.dpc = s.pc &&& s.cfg.epcMask
      ∧ t.csr.dcsr.extractLsb' 6 3 = 1#3 ∧ t.csr.dcsr.extractLsb' 0 2 = s.priv.code
      ∧ (∀ j, 9 ≤ j ∨ (2 ≤ j ∧ j < 6) → t.csr.dcsr.getLsbD j = s.csr.dcsr.getLsbD j)
      ∧ t.csr = { s.csr with dpc := t.csr.dpc, dcsr := t.csr.dcsr }
      ∧ t.stepPending = false ∧ t.debugHaltPending = false ∧ t.ctx.retired = false ∧ t.ctx.exceptionTaken = none
      ∧ t.pc = s.pc ∧ t.priv = s.priv ∧ t.x = s.x ∧ t.trig = s.trig ∧ t.loadQueue = s.loadQueue
      ∧ t.counts = s.counts ∧ t.nmiPending = s.nmiPending ∧ SameOutside s t
      ∧ t = { s with csr := t.csr, debugMode := true, stepPending := false, debugHaltPending := false, ctx := t.ctx }

/-- R552, R700: `mret` in M mode restores MIE from MPIE, sets MPIE, takes the mode from MPP, sets MPP to the least mode,
and goes to `mepc`; below M it is illegal. R555: `sret`, in M mode or in S mode with TSR 0, does the same for the S
fields and `sepc`; otherwise it is illegal. -/
def Obligations.TrapReturnsRestoreTheSavedMode : Prop :=
  (∀ s : State,
    (∀ p : Priv, s.priv = .m → mppOf s.csr.mstatus = p.code →
      ∃ t, exec .mret s = .next t ∧ t.ctx.retired = true ∧ t.pc = s.csr.mepc ∧ t.priv = p
        ∧ t.csr.mstatus.getLsbD 3 = s.csr.mstatus.getLsbD 7 ∧ t.csr.mstatus.getLsbD 7 = true
        ∧ mppOf t.csr.mstatus = (if s.cfg.extU then 0#2 else 3#2)
        ∧ (∀ j, j ∉ [3, 7, 11, 12] → t.csr.mstatus.getLsbD j = s.csr.mstatus.getLsbD j)
        ∧ t.csr = { s.csr with mstatus := t.csr.mstatus } ∧ t.x = s.x ∧ t.trig = s.trig
        ∧ t.loadQueue = s.loadQueue ∧ t.nmiPending = s.nmiPending ∧ t.debugMode = s.debugMode ∧ SameOutside s t)
    ∧ (s.priv ≠ .m → TakesException .mret s .illegal
        (match s.cfg.illegalTval with | .instruction => 0x30200073#64 | .zero => 0#64)))
  ∧ (∀ s : State, let allowed := s.priv = .m ∨ (s.priv = .s ∧ s.csr.mstatus.getLsbD 22 = false)
    (allowed →
      ∃ t, exec .sret s = .next t ∧ t.ctx.retired = true ∧ t.pc = s.csr.sepc
        ∧ t.priv = (if s.csr.mstatus.getLsbD 8 then .s else .u)
        ∧ t.csr.mstatus.getLsbD 1 = s.csr.mstatus.getLsbD 5 ∧ t.csr.mstatus.getLsbD 5 = true
        ∧ t.csr.mstatus.getLsbD 8 = false
        ∧ (∀ j, j ∉ [1, 5, 8] → t.csr.mstatus.getLsbD j = s.csr.mstatus.getLsbD j)
        ∧ t.csr = { s.csr with mstatus := t.csr.mstatus } ∧ t.x = s.x ∧ t.trig = s.trig
        ∧ t.loadQueue = s.loadQueue ∧ t.nmiPending = s.nmiPending ∧ t.debugMode = s.debugMode ∧ SameOutside s t)
    ∧ (¬ allowed → TakesException .sret s .illegal
        (match s.cfg.illegalTval with | .instruction => 0x10200073#64 | .zero => 0#64)))

/-- R556: `sfence.vma`, in M mode or in S mode with TVM 0, hands its request to the translation collaborator and
changes only the pc; otherwise it is illegal. The list of requests is the model's own (log 5). -/
def Obligations.SfenceVmaOnlyRequestsAFlush : Prop :=
  ∀ (s : State) (rs1 rs2 : Reg), let allowed := s.priv = .m ∨ (s.priv = .s ∧ s.csr.mstatus.getLsbD 20 = false)
    (allowed →
      ∃ t, exec (.sfenceVma rs1 rs2) s = .next t ∧ t.ctx.retired = true ∧ t.pc = s.pc + 4#64 ∧ t.x = s.x
        ∧ t.flushes = { vaddr := if rs1 = 0#5 then none else some (s.readX rs1)
                        asid := if rs2 = 0#5 then none else some (s.readX rs2) } :: s.flushes
        ∧ t.mem = s.mem ∧ t.clint = s.clint ∧ t.storeQueue = s.storeQueue ∧ t.loadQueue = s.loadQueue
        ∧ t.consoleOut = s.consoleOut ∧ SameCore s t)
    ∧ (¬ allowed → TakesException (.sfenceVma rs1 rs2) s .illegal
        (match s.cfg.illegalTval with | .instruction => (Instr.sfenceVma rs1 rs2).bits.setWidth 64 | .zero => 0#64))

/-! ## Taking an exception, an interrupt, an NMI (60_exceptions) -/

/-- R691: the target mode; a trap never lowers the privilege, a delegated interrupt is never selected in M mode, and an
environment call from M mode is never delegated where `medeleg` holds what it can hold. -/
def Obligations.TrapTargetModeRule : Prop :=
  ∀ (s : State) (e : TrapEvent), let t := s.targetMode e
    let bit := match e with
      | .exception c _ _ => s.csr.medeleg.getLsbD c.code
      | .interrupt i => s.csr.mideleg.getLsbD i.code
      | .nmi _ => false
    (t = .s ↔ s.cfg.extS = true ∧ s.priv ≠ .m ∧ bit = true) ∧ (t = .s ∨ t = .m)
      ∧ s.priv.code.toNat ≤ t.code.toNat
      ∧ (∀ i, s.selectInterrupt = some i → s.priv = .m → s.csr.mideleg.getLsbD i.code = false)
      ∧ (s.Reserved → ∀ tv p, e = .exception .ecallM tv p → t = .m)

/-- R690, R692, R695: what taking an exception or an interrupt in M mode saves, where it goes (R694), and that it changes
nothing else (a fast interrupt aside, R697). -/
def Obligations.MachineTrapEntry : Prop :=
  (∀ (s : State) (c : Exc) (tv p : Word), s.targetMode (.exception c tv p) = .m →
    EntersMachine s (.exception c tv p) p (BitVec.ofNat 64 c.code) tv (s.csr.mtvec &&& ~~~3#64))
  ∧ (∀ (s : State) (i : Irq), s.targetMode (.interrupt i) = .m → (s.cfg.fastIntEnabled = false ∨ i ≠ .mei) →
    EntersMachine s (.interrupt i) s.pc (BitVec.ofNat 64 (2 ^ 63 + i.code)) 0#64 (interruptTarget s.csr.mtvec i))

/-- R690, R692, R696, R699: what taking an exception or an interrupt in S mode saves and where it goes (R694); the M-mode
trap registers stay. -/
def Obligations.SupervisorTrapEntry : Prop :=
  (∀ (s : State) (c : Exc) (tv p : Word), s.targetMode (.exception c tv p) = .s →
    EntersSupervisor s (.exception c tv p) p (BitVec.ofNat 64 c.code) tv (s.csr.stvec &&& ~~~3#64))
  ∧ (∀ (s : State) (i : Irq), s.targetMode (.interrupt i) = .s →
    EntersSupervisor s (.interrupt i) s.pc (BitVec.ofNat 64 (2 ^ 63 + i.code)) 0#64 (interruptTarget s.csr.stvec i))

/-- R697: a machine external interrupt with fast dispatch goes to the address read at `meihap`, made even; when the
read fails it goes to the base of `mtvec` and an NMI becomes pending. -/
def Obligations.FastInterruptDispatch : Prop :=
  ∀ s : State, s.cfg.fastIntEnabled = true → s.targetMode (.interrupt .mei) = .m →
    let t := s.takeTrap (.interrupt .mei)
    let a := (s.csr.meivt &&& 0xFFFFFFFFFFFFFC00#64) ||| (s.csr.claimid.setWidth 64 <<< 2)
    let bytes := (List.range 8).map fun k => a + BitVec.ofNat 64 k
    let ok := s.pmpAllows .load .m a 8 && s.accessOk .load bytes
    t.pc = (if ok then leValue (bytes.map s.physByte) &&& s.cfg.epcMask else s.csr.mtvec &&& ~~~3#64)
      ∧ t.nmiPending = (s.nmiPending || !ok)
      ∧ t.nmiCause = (if ok then s.nmiCause else s.cfg.nmiCauseFastInt)
      ∧ t.csr.mcause = BitVec.ofNat 64 (2 ^ 63 + 11) ∧ t.csr.mepc = s.pc &&& s.cfg.epcMask ∧ t.priv = .m
      ∧ t.x = s.x ∧ t.mem = s.mem

/-- R685, R686, R688: a pending NMI is taken at the start of a step that no debug halt request precedes, before any
interrupt or instruction, whatever the enables, the delegation and a single step say. -/
def Obligations.PendingNmiIsTakenFirst : Prop :=
  ∀ s : State, s.cfg.admitted = true → s.done = false → s.debugMode = false → s.cfg.stopAddress ≠ some s.pc →
    s.debugHaltPending = false → s.nmiPending = true →
    ∃ t, step s = .next t ∧ t.csr.mepc = s.pc &&& s.cfg.epcMask ∧ t.csr.mcause = s.nmiCause ∧ t.csr.mtval = 0#64
      ∧ t.csr.mscause = s.cfg.secondary (.nmi s.nmiCause) ∧ t.csr.mstatus.getLsbD 7 = s.csr.mstatus.getLsbD 3
      ∧ t.csr.mstatus.getLsbD 3 = false ∧ mppOf t.csr.mstatus = s.priv.code
      ∧ (∀ j, j ∉ [3, 7, 11, 12] → t.csr.mstatus.getLsbD j = s.csr.mstatus.getLsbD j)
      ∧ t.priv = .m ∧ t.pc = s.cfg.nmiPc ∧ t.nmiPending = false ∧ t.counts = bumpCount (.nmi s.nmiCause) s.counts
      ∧ t.x = s.x ∧ t.mem = s.mem ∧ t.csr.mip = s.beginStep.csr.mip
      ∧ t.csr.minstret = s.csr.minstret ∧ t.execCount = s.execCount

/-- R688, R701, R780: a debug halt request is acted on before an NMI, an interrupt and the instruction; it halts the
hart at its pc and leaves them pending, and changes no CSR but those of debug entry, the step's cycle count and the
sampled bits of `mip`. -/
def Obligations.HaltRequestComesBeforeEverything : Prop :=
  ∀ s : State, s.cfg.admitted = true → s.done = false → s.debugMode = false → s.cfg.stopAddress ≠ some s.pc →
    s.debugHaltPending = true →
    ∃ t, step s = .next t ∧ t.debugMode = true ∧ t.debugHaltPending = false ∧ t.stepPending = false
      ∧ t.csr.dpc = s.pc &&& s.cfg.epcMask ∧ t.csr.dcsr.extractLsb' 6 3 = 3#3
      ∧ t.csr.dcsr.extractLsb' 0 2 = s.priv.code ∧ t.pc = s.pc ∧ t.priv = s.priv ∧ t.x = s.x ∧ t.mem = s.mem
      ∧ t.nmiPending = s.nmiPending ∧ t.nmiCause = s.nmiCause ∧ t.csr.mstatus = s.csr.mstatus
      ∧ t.csr.mepc = s.csr.mepc ∧ t.csr.mcause = s.csr.mcause ∧ t.csr.minstret = s.csr.minstret
      ∧ t.csr = { s.csr with
          dpc := t.csr.dpc, dcsr := t.csr.dcsr, mcycle := t.csr.mcycle, mip := s.sampleInputs.csr.mip }

/-- R671 to R673: an interrupt is ready when it is pending, enabled by mask and globally enabled for its target, and no
single step holds it back. R680, R681: the one selected is ready, and comes first in the fixed priority: every target M
before any target S, then MEI, MSI, MTI, SEI, SSI, STI. -/
def Obligations.SelectedInterruptHasHighestPriority : Prop :=
  ∀ s : State,
    let deleg (i : Irq) := s.csr.mideleg.getLsbD i.code = true
    let ready (i : Irq) : Prop :=
      s.csr.mip.getLsbD i.code = true ∧ s.csr.mie.getLsbD i.code = true
      ∧ (¬ deleg i → s.priv ≠ .m ∨ s.csr.mstatus.getLsbD 3 = true)
      ∧ (deleg i → s.cfg.extS = true ∧ (s.priv = .u ∨ (s.priv = .s ∧ s.csr.mstatus.getLsbD 1 = true)))
      ∧ ¬ (s.stepPending = true ∧ s.csr.dcsr.getLsbD 11 = false)
    let rank (i : Irq) : Nat := match i with | .mei => 0 | .msi => 1 | .mti => 2 | .sei => 3 | .ssi => 4 | .sti => 5
    (s.selectInterrupt = none ↔ ∀ i, ¬ ready i)
    ∧ ∀ i, s.selectInterrupt = some i →
        ready i ∧ ∀ j, ready j → j ≠ i → (deleg j ∧ ¬ deleg i) ∨ ((deleg j ↔ deleg i) ∧ rank i < rank j)

/-- R680, R688: a selected interrupt is taken at the start of the step instead of the instruction, which has not
begun. -/
def Obligations.SelectedInterruptIsTaken : Prop :=
  ∀ (s : State) (i : Irq), s.cfg.admitted = true → s.done = false → s.debugMode = false →
    s.cfg.stopAddress ≠ some s.pc → s.debugHaltPending = false → s.nmiPending = false →
    s.cfg.fastIntEnabled = false → s.beginStep.selectInterrupt = some i →
    ∃ t, step s = .next t ∧ t.x = s.x ∧ t.mem = s.mem ∧ t.execCount = s.execCount
      ∧ t.csr.minstret = s.csr.minstret ∧ t.pc = (s.beginStep.takeTrap (.interrupt i)).pc
      ∧ t.priv = (if s.csr.mideleg.getLsbD i.code then .s else .m)
      ∧ (t.priv = .m → t.csr.mcause = BitVec.ofNat 64 (2 ^ 63 + i.code) ∧ t.csr.mepc = s.pc &&& s.cfg.epcMask)
      ∧ (t.priv = .s → t.csr.scause = BitVec.ofNat 64 (2 ^ 63 + i.code) ∧ t.csr.sepc = s.pc &&& s.cfg.epcMask)

/-- R712: the CLINT's inputs are sampled into MSIP and MTIP, and nothing else changes. R710, R713, R714: a store to
`msip[h]` sets that bit alone, one to `mtimecmp[h]` or to half of it that compare value or that half alone, one to
`mtime` or to half of it nothing. -/
def Obligations.ClintRegistersDriveInterruptInputs : Prop :=
  (∀ s : State, (s.cfg.clintEnabled = false → s.sampleInputs = s)
    ∧ (s.cfg.clintEnabled = true → ∀ (b : Bool) (c : Word),
        s.clint.msip[s.cfg.hartId.toNat]? = some b → s.clint.mtimecmp[s.cfg.hartId.toNat]? = some c →
        let t := s.sampleInputs
        t.csr.mip.getLsbD 3 = b ∧ t.csr.mip.getLsbD 7 = decide (c.toNat ≤ s.clint.mtime.toNat)
          ∧ (∀ j, j ≠ 3 → j ≠ 7 → t.csr.mip.getLsbD j = s.csr.mip.getLsbD j)
          ∧ t = { s with csr := { s.csr with mip := t.csr.mip } }))
  ∧ (∀ (c : Clint) (h : Nat) (v : Word), h < c.msip.length → h < c.mtimecmp.length → h < 4095 →
    let put (off n : Nat) : Clint :=
      (List.range n).foldl (fun d k => d.writeByte (off + k) (v.extractLsb' (8 * k) 8)) c
    put (4 * h) 4 = { c with msip := c.msip.set h (v.getLsbD 0) }
      ∧ put (0x4000 + 8 * h) 8 = { c with mtimecmp := c.mtimecmp.set h v }
      ∧ put (0x4000 + 8 * h) 4
          = { c with mtimecmp := c.mtimecmp.modify h fun w => w.extractLsb' 32 32 ++ v.extractLsb' 0 32 }
      ∧ put (0x4000 + 8 * h + 4) 4
          = { c with mtimecmp := c.mtimecmp.modify h fun w => v.extractLsb' 0 32 ++ w.extractLsb' 0 32 }
      ∧ put 0xBFF8 8 = c ∧ put 0xBFF8 4 = c ∧ put 0xBFFC 4 = c)

/-! ## Debug mode and triggers (61_debug_triggers) -/

/-- R302, R321, R785: a halted hart and a stopped hart change nothing. R783: `resume()` is the way out of debug mode. -/
def Obligations.HaltedHartWaitsForResume : Prop :=
  (∀ s : State, (s.debugMode = false → s.resume = none)
    ∧ ∀ p : Priv, s.debugMode = true → s.csr.dcsr.extractLsb' 0 2 = p.code →
        s.resume = some { s with pc := s.csr.dpc, priv := p, debugMode := false, stepPending := s.csr.dcsr.getLsbD 2 })
  ∧ (∀ s : State, s.cfg.admitted = true → (s.done = true ∨ s.debugMode = true) → step s = .next s)

/-- R784: the step of a hart resumed with `dcsr.step` ends in debug mode, whatever the step did. -/
def Obligations.SingleStepEndsInDebugMode : Prop :=
  ∀ s t : State, s.cfg.admitted = true → s.done = false → s.debugMode = false → s.cfg.stopAddress ≠ some s.pc →
    s.stepPending = true → step s = .next t → t.debugMode = true ∧ t.stepPending = false

/-- R761: how a slot compares. -/
def Obligations.TriggerMatchRule : Prop :=
  ∀ t v : Word,
    (matchValue 0#4 t v = true ↔ v = t)
    ∧ (∀ k, k < 64 → (∀ j < k, t.getLsbD j = true) → t.getLsbD k = false →
        (matchValue 1#4 t v = true ↔ ∀ j, k < j → j < 64 → v.getLsbD j = t.getLsbD j))
    ∧ (t = BitVec.allOnes 64 → matchValue 1#4 t v = true)
    ∧ (matchValue 2#4 t v = true ↔ t.toNat ≤ v.toNat)
    ∧ (matchValue 3#4 t v = true ↔ v.toNat < t.toNat)
    ∧ (matchValue 4#4 t v = true ↔ v.extractLsb' 0 32 &&& t.extractLsb' 32 32 = t.extractLsb' 0 32)
    ∧ (matchValue 5#4 t v = true ↔ v.extractLsb' 32 32 &&& t.extractLsb' 32 32 = t.extractLsb' 0 32)

/-- R760, R762: a slot qualifies when its type is 2, its execute, load or store bit and `select` are those of the kind,
its timing is that of the evaluation and its bit of the mode is set; R763: unless its action is the breakpoint, the mode
M and interrupts are disabled. R764: a chain trips exactly when every slot of it qualifies and matches (R761) in the same
evaluation; the slot that names the trip, and the action, are those of its last slot. -/
def Obligations.ChainsTripWhenEverySlotFires : Prop :=
  ∀ (s : State) (k : TrigKind) (v : Word) (tm : Timing) (w : Word),
    let fires (t : TrigSlot) : Prop :=
      let bit (j : Nat) : Bool := t.tdata1.getLsbD j
      t.tdata1.extractLsb' 60 4 = 2#4
      ∧ (match k with
        | .execAddr => bit 2 = true ∧ bit 19 = false
        | .execOpcode => bit 2 = true ∧ bit 19 = true
        | .loadAddr => bit 0 = true ∧ bit 19 = false
        | .loadData => bit 0 = true ∧ bit 19 = true
        | .storeAddr => bit 1 = true ∧ bit 19 = false
        | .storeData => bit 1 = true ∧ bit 19 = true)
      ∧ (tm = .after ↔ bit 18 = true)
      ∧ (match s.priv with | .m => bit 6 = true | .s => bit 4 = true | .u => bit 3 = true)
      ∧ ¬ (t.tdata1.extractLsb' 12 4 ≠ 1#4 ∧ s.priv = .m ∧ s.csr.mstatus.getLsbD 3 = false)
      ∧ matchValue (t.tdata1.extractLsb' 7 4) t.tdata2 v = true
    (∀ j : Nat, (∃ tr ∈ (s.triggerEval k v tm w).1, tr.slot = j) ↔
      ∃ t, s.trig[j]? = some t ∧ t.chained = false ∧ fires t
        ∧ ∀ i u, i < j → s.trig[i]? = some u →
            (∀ m, i ≤ m → m < j → ∃ r, s.trig[m]? = some r ∧ r.chained = true) → fires u)
    ∧ ∀ tr ∈ (s.triggerEval k v tm w).1, tr.tval = w
        ∧ ∃ t, s.trig[tr.slot]? = some t ∧ (tr.debug = true ↔ t.tdata1.extractLsb' 12 4 = 1#4)

/-- R770: every slot of type 3 whose mode bit of the mode the instruction executed in is set, which R763 does not suppress
and whose count is not 0, counts down by one; it trips and is hit exactly when the count was 1; every other slot stays.
R773: the trip has trap value 0, and its action is taken at the pc, already the next instruction's. A slot that the
instruction itself wrote does not count it (the model's reading of R853, log 9). -/
def Obligations.InstructionCountRule : Prop :=
  (∀ (l : List TrigSlot) (c : Ctx), let r := icountScan c 0 l
    r.2.length = l.length ∧ (∀ tr ∈ r.1, tr.slot < l.length ∧ tr.tval = 0#64)
    ∧ ∀ (j : Nat) (t : TrigSlot), l[j]? = some t →
      let n := (t.tdata1.extractLsb' 10 14).toNat; let action := t.tdata1.extractLsb' 0 6
      let modeBit := match c.startPriv with | .m => t.tdata1.getLsbD 9 | .s => t.tdata1.getLsbD 7 | .u => t.tdata1.getLsbD 6
      let counts := t.tdata1.extractLsb' 60 4 = 3#4 ∧ modeBit = true ∧ n ≠ 0 ∧ c.slotWritten ≠ some j
        ∧ ¬ (action ≠ 1#6 ∧ c.startPriv = .m ∧ c.startMie = false)
      (¬ counts → r.2[j]? = some t ∧ ∀ tr ∈ r.1, tr.slot ≠ j)
      ∧ (counts → ∃ u, r.2[j]? = some u ∧ u.tdata2 = t.tdata2 ∧ (u.tdata1.extractLsb' 10 14).toNat + 1 = n
        ∧ ((∃ tr ∈ r.1, tr.slot = j) ↔ n = 1) ∧ (∀ tr ∈ r.1, tr.slot = j → (tr.debug = true ↔ action = 1#6))
        ∧ u.tdata1.getLsbD 24 = (decide (n = 1) || t.tdata1.getLsbD 24)
        ∧ ∀ k, k < 10 ∨ 25 ≤ k → u.tdata1.getLsbD k = t.tdata1.getLsbD k))
  ∧ ∀ s : State, let r := icountScan s.ctx 0 s.trig
    s.countTriggers.trig = r.2 ∧ (r.1 = [] → s.countTriggers = { s with trig := r.2 })
    ∧ (r.1 ≠ [] →
      ((∃ tr ∈ r.1, tr.debug = true) → s.countTriggers = { s with trig := r.2 }.enterDebug .trigger s.pc)
      ∧ ((∀ tr ∈ r.1, tr.debug = false) →
          s.countTriggers = { s with trig := r.2 }.takeTrap (.exception .breakpoint 0#64 s.pc)))

/-! ## Whole-machine rules -/

/-- R308, R476, R663, R775: an instruction that does not retire, by an exception, a trigger trip or debug entry, has
changed no general register, no memory, no CLINT register and no queue. -/
def Obligations.UnretiredInstructionChangesNothingVisible : Prop :=
  ∀ (s t : State) (i : Instr), exec i s = .next t → t.ctx.retired = false →
    t.x = s.x ∧ t.mem = s.mem ∧ t.clint = s.clint ∧ t.loadQueue = s.loadQueue ∧ t.storeQueue = s.storeQueue
      ∧ t.consoleOut = s.consoleOut ∧ t.cfg = s.cfg ∧ t.mdseacLocked = s.mdseacLocked ∧ t.flushes = s.flushes

/-- R703: among instructions, only `mret`, `sret` and taking an exception change the privilege. -/
def Obligations.PrivilegeChangesOnlyByReturnOrTrap : Prop :=
  ∀ (s t : State) (i : Instr), exec i s = .next t → t.priv ≠ s.priv →
    (t.ctx.retired = true ∧ (i = .mret ∨ i = .sret))
      ∨ (t.ctx.retired = false ∧ t.ctx.exceptionTaken ≠ none ∧ s.priv.code.toNat ≤ t.priv.code.toNat)

/-- R702: an instruction that retires in U mode changes no CSR, no trigger slot and no lock. -/
def Obligations.UserModeInstructionsChangeNoCsr : Prop :=
  ∀ (s t : State) (i : Instr), s.priv = .u → exec i s = .next t → t.ctx.retired = true →
    t.csr = s.csr ∧ t.trig = s.trig ∧ t.mdseacLocked = s.mdseacLocked ∧ t.priv = .u

/-! ## Invariants -/

/-- Every step keeps memory's canonical form, the alignment of the pc and of every saved pc, and the legality of every
held mode (R58, R60, R71, R85, R126, R140, R141). -/
def Obligations.StepKeepsTheInvariant : Prop :=
  ∀ s t : State, s.Inv → step s = .next t → t.Inv

/-- Every step keeps the hardwired fields (R70, R76 to R79, R88, R123, R143), the bounds of the trigger slots and of the
queues (R135, R148, R803), and leaves no step context. -/
def Obligations.StepKeepsFieldsAndBounds : Prop :=
  ∀ s t : State, s.Inv → s.Reserved → s.Bounded → s.Idle → step s = .next t → t.Reserved ∧ t.Bounded ∧ t.Idle

/-- After reset of an admitted configuration every invariant holds (R830). -/
def Obligations.ResetSatisfiesEveryInvariant : Prop :=
  ∀ c : Config, c.admitted = true →
    (State.resetWith c).Inv ∧ (State.resetWith c).Reserved ∧ (State.resetWith c).Bounded ∧ (State.resetWith c).Idle

/-! ## Reset (70_reset_and_hazards) -/

/-- The values R830 gives, for every configuration. -/
def Obligations.ResetValues : Prop :=
  ∀ c : Config, let s := State.resetWith c
    s.x = c.xregReset ∧ s.pc = c.resetPc ∧ s.priv = .m ∧ s.debugMode = false
      ∧ s.csr.mstatus = (if c.extS then 0x800001800#64 else 0x1800#64) ||| (if c.extU then 0x200000000#64 else 0#64)
      ∧ s.csr.mtvec = c.mtvecReset &&& ~~~2#64 ∧ s.csr.dcsr = 0x40000003#64
      ∧ (∀ r ∈ [Csr.medeleg, .mideleg, .mie, .mcounteren, .scounteren, .mcountinhibit, .mscratch, .mepc, .mcause,
          .mtval, .mip, .pmpcfg0, .pmpcfg2, .mcycle, .minstret, .stvec, .sscratch, .sepc, .scause, .stval, .satp,
          .tselect, .dpc, .dscratch0, .dscratch1, .mscause, .meivt, .mdseac, .meihap], s.csrRead r = 0#64)
      ∧ (∀ i, s.csrRead (.mhpmevent i) = 0#64 ∧ s.csrRead (.mhpmcounter i) = 0#64)
      ∧ (∀ i, s.csrRead (.pmpaddr i) = 0#64)
      ∧ s.csrRead .misa = 0x8000000000000100#64 ||| (if c.extM then 0x1000#64 else 0#64)
          ||| (if c.extC then 0x4#64 else 0#64) ||| (if c.extS then 0x40000#64 else 0#64)
          ||| (if c.extU then 0x100000#64 else 0#64)
      ∧ s.csrRead .mvendorid = c.mvendorid ∧ s.csrRead .marchid = c.marchid ∧ s.csrRead .mimpid = c.mimpid
      ∧ s.csrRead .mhartid = c.hartId ∧ s.csrRead .tdata3 = 0#64 ∧ s.csrRead .tinfo = 0xD#64
      ∧ s.csrRead .sstatus = s.csr.mstatus &&& 0x80000003000DE122#64 ∧ s.csrRead .sie = 0#64 ∧ s.csrRead .sip = 0#64
      ∧ s.readX 0#5 = 0#64
      ∧ s.trig = List.replicate c.numTriggers { tdata1 := 0x27E0000000000000#64, tdata2 := 0#64 }
      ∧ s.nmiPending = false ∧ s.nmiCause = 0#64 ∧ s.mdseacLocked = false ∧ s.debugHaltPending = false
      ∧ s.stepPending = false ∧ s.loadQueue = [] ∧ s.storeQueue = [] ∧ s.loadTag = 0#64
      ∧ s.clint.msip = List.replicate c.numHarts false
      ∧ s.clint.mtimecmp = List.replicate c.numHarts (BitVec.allOnes 64) ∧ s.clint.mtime = 0#64
      ∧ s.done = false ∧ s.stopReason = none ∧ s.execCount = 0 ∧ s.counts = []

/-- R832: after reset no interrupt is selected and no trigger can match, so the first step goes to the fetch at
RESET_PC, unless the stop address is there. -/
def Obligations.FirstStepAfterResetFetches : Prop :=
  ∀ c : Config, c.admitted = true → c.stopAddress ≠ some c.resetPc →
    (State.resetWith c).StartsInstr
      ∧ ∀ (k : TrigKind) (v : Word) (tm : Timing) (w : Word), ((State.resetWith c).triggerEval k v tm w).1 = []

/-! ## The host and the rollback queues (40_step_protocol, 62_rollback_queue) -/

/-- R312: register access by the host. R311: a call that fails changes nothing. R520, R522: a poke of an unimplemented CSR
fails; otherwise it changes only bits of the poke mask, here shown for the CSRs whose poke mask is not their write mask
(`mip`, which the host drives, `dcsr`, `mdseac`, `meihap`) and for those whose poke mask is 0. R758: a poke of `tdata1`
that would chain an odd slot, where chains start at even ones, fails. -/
def Obligations.HostRegisterAndCsrAccess : Prop :=
  (∀ (s : State) (i : Nat) (v : Word),
    (i ≤ 31 → s.peekX i = some (s.readX (BitVec.ofNat 5 i))) ∧ (31 < i → s.peekX i = none ∧ s.pokeX i v = none)
    ∧ s.pokeX 0 v = some s
    ∧ (1 ≤ i → i ≤ 31 → ∃ t, s.pokeX i v = some t ∧ (∀ q : Reg, t.readX q = if q.toNat = i then v else s.readX q)
        ∧ t = { s with x := t.x })
    ∧ (s.pokePc v).pc = v &&& (if s.cfg.extC then ~~~1#64 else ~~~3#64))
  ∧ (∀ (s : State) (n : CsrNum) (v : Word),
    (s.csrOf n = none → s.peekCsr n = none ∧ s.pokeCsr n v = none)
    ∧ (∀ r, s.csrOf n = some r → s.peekCsr n = some (s.csrRead r))
    ∧ ∃ t, s.pokeCsr 0x344#12 v = some t
        ∧ (∀ j, t.csr.mip.getLsbD j = if (if s.cfg.extS then 0xAAA#64 else 0x888#64).getLsbD j then v.getLsbD j
            else s.csr.mip.getLsbD j)
        ∧ t = { s with csr := { s.csr with mip := t.csr.mip } })
  ∧ (∀ (s : State) (v : Word), let mask := 0x8FD7#64 ||| (if s.cfg.extS then 0x2000#64 else 0#64)
        ||| (if s.cfg.extU then 0x1000#64 else 0#64)
    (∃ t, s.pokeCsr 0x7B0#12 v = some t
      ∧ (∀ j, 2 ≤ j → t.csr.dcsr.getLsbD j = if mask.getLsbD j then v.getLsbD j else s.csr.dcsr.getLsbD j)
      ∧ t.csr.dcsr.extractLsb' 0 2
          = (if s.cfg.modeLegal (v.extractLsb' 0 2) then v.extractLsb' 0 2 else s.csr.dcsr.extractLsb' 0 2)
      ∧ t = { s with csr := { s.csr with dcsr := t.csr.dcsr } })
    ∧ s.pokeCsr 0xFC0#12 v = some { s with csr := { s.csr with mdseac := v } }
    ∧ s.pokeCsr 0xFC8#12 v = some { s with csr := { s.csr with claimid := v.extractLsb' 2 8 } }
    ∧ (∀ r, (r ∈ [Csr.misa, .tdata3, .tinfo, .cycle, .time, .instret, .mvendorid, .marchid, .mimpid, .mhartid]
          ∨ ∃ i, r = .hpmcounter i) → r.present s.cfg = true → s.pokeCsr r.num v = some s)
    ∧ (0 < s.cfg.numTriggers → s.cfg.triggerEvenOdd = true → s.csr.tselect.toNat % 2 = 1 →
        s.csr.tselect.toNat + 1 ≠ s.cfg.numTriggers → v.extractLsb' 60 4 = 2#4 → v.getLsbD 11 = true →
        s.pokeCsr 0x7A1#12 v = none))
  ∧ ∀ (s : State) (c : HostCall), (s.call c).1 = .failed → (s.call c).2 = s

/-- R806, R807, R811: the load exception call. -/
def Obligations.LoadExceptionCall : Prop :=
  ∀ (s : State) (addr tag : Word),
    let m := s.loadQueue.filter fun e => e.addr == addr && e.tag == tag
    (s.applyLoadException addr tag).1 = m.length
    ∧ (m.length ≠ 1 → (s.applyLoadException addr tag).2 = s)
    ∧ ∀ e, m = [e] → let t := (s.applyLoadException addr tag).2
        (∀ q : Reg, t.readX q = if e.valid = true ∧ q = e.rd ∧ e.rd ≠ 0#5 then e.prior else s.readX q)
          ∧ t.loadQueue = s.loadQueue.filter (fun f => !(f.addr == addr && f.tag == tag))
          ∧ t.csr = { s.csr with mdseac := if s.mdseacLocked then s.csr.mdseac else addr } ∧ t.mdseacLocked = true
          ∧ t.nmiPending = true ∧ t.nmiCause = s.cfg.nmiCauseLoad ∧ t.pc = s.pc ∧ t.priv = s.priv ∧ t.mem = s.mem

/-- R808: a unique store match puts back each byte that no younger queued store wrote, touches no other byte, and hands
each other byte to the first younger entry that wrote it (which one takes it is the model's reading, log 14); it removes
the entry and no other, captures the address and makes the NMI pending; any other count changes nothing. -/
def Obligations.StoreExceptionCall : Prop :=
  ∀ (s : State) (addr : Word), let m := s.storeQueue.filter fun e => e.addr == addr
    (s.applyStoreException addr).1 = m.length
    ∧ (m.length ≠ 1 → (s.applyStoreException addr).2 = s)
    ∧ ∀ (older younger : List StoreEntry) (e : StoreEntry), m = [e] → s.storeQueue = older ++ e :: younger → s.mem.wf →
        e.phys.Nodup → e.phys.length = e.prior.length → (∀ p ∈ e.phys, s.cfg.nonIdempotent p = false) →
        let t := (s.applyStoreException addr).2
        (∀ k, ∀ h : k < e.phys.length, (∀ y ∈ younger, e.phys[k] ∉ y.phys) →
            some (t.mem.read e.phys[k].toNat) = e.prior[k]?)
          ∧ (∀ b : Nat, (∀ p ∈ e.phys, p.toNat ≠ b) → t.mem.read b = s.mem.read b)
          ∧ (∀ p ∈ e.phys, (∃ y ∈ younger, p ∈ y.phys) → t.mem.read p.toNat = s.mem.read p.toNat)
          ∧ (∃ left : List StoreEntry, t.storeQueue = older ++ left ∧ left.length = younger.length
            ∧ ∀ (j : Nat) (y y' : StoreEntry), younger[j]? = some y → left[j]? = some y' →
              y' = { y with prior := y'.prior } ∧ y'.prior.length = y.prior.length
              ∧ ∀ (i k : Nat) (p : Word), i < y.prior.length → y.phys[i]? = some p →
                (e.phys[k]? = some p → (∀ z ∈ younger.take j, p ∉ z.phys) → y'.prior[i]? = e.prior[k]?)
                ∧ ((p ∉ e.phys ∨ ∃ z ∈ younger.take j, p ∈ z.phys) → y'.prior[i]? = y.prior[i]?))
          ∧ t.x = s.x
          ∧ t.csr.mdseac = (if s.mdseacLocked then s.csr.mdseac else addr) ∧ t.mdseacLocked = true
          ∧ t.nmiPending = true ∧ t.nmiCause = s.cfg.nmiCauseStore
          ∧ t = { s with mem := t.mem, storeQueue := t.storeQueue, csr := { s.csr with mdseac := t.csr.mdseac }
                         mdseacLocked := true, nmiPending := true, nmiCause := s.cfg.nmiCauseStore }

/-- R815, R818, R819: a what-if step leaves the hart as it was, but for the instrumentation counts and what a device
has been asked (`tick`). -/
def Obligations.WhatIfLeavesTheHartAsItWas : Prop :=
  ∀ (s : State) (pc : Word) (w : Bits), let r := s.whatIf pc w
    r.2 = { s with counts := r.2.counts, tick := r.2.tick }
      ∧ (r.1.1 = true ↔ (s.probe pc w).ctx.retired = true) ∧ r.1.2.pc = (s.probe pc w).pc

/-! ## Several harts (60_exceptions R714, R725; 20_memory R226) -/

/-- R226, R714, R725, R67: after an action of hart `i`, a step or a call of the host, every other hart is what it was but
for memory, the CLINT, the devices' progress (`tick`) and the CSRs both list. A CSR both have and list reads as hart
`i`'s when the action wrote or changed it or the two agreed before; one the action neither wrote nor changed, or that
they do not both have and list, reads as before (shown for the CSRs no view or shadow touches). A poke that succeeds
writes its CSR, by number or by name (R520, R521), one that fails and every other call write none. The acting hart is in the state its step or
the call gives. R831: a reset call keeps memory and the other harts' CLINT words and sets everything else, but for a CSR
shared with another hart, which keeps its value where the harts that share it agree. -/
def Obligations.HartsShareMemoryClintAndListedCsrs : Prop :=
  ∀ (y z : System) (act : SystemAction), y.act act = some z →
    ∃ s u, y.harts[act.hart]? = some s ∧ z.harts[act.hart]? = some u ∧ z.harts.length = y.harts.length
      ∧ (∀ i, act = .step i → step s = .next u)
      ∧ (∀ i c, act = .host i c → c ≠ .reset → u = (s.call c).2)
      ∧ (∀ i, act = .host i .reset → let others := y.harts.eraseIdx i; let h := s.cfg.hartId.toNat
          u = { State.resetWith s.cfg with
                csr := u.csr, trig := u.trig, mem := s.mem, consoleOut := s.consoleOut, tick := s.tick
                flushes := s.flushes
                clint := { msip := s.clint.msip.set h false
                           mtimecmp := s.clint.mtimecmp.set h (BitVec.allOnes 64)
                           mtime := 0#64 } }
          ∧ ∀ r ∈ plainCsrs,
            ((∀ o ∈ others, ¬ shareCsrOf s o r) → u.csrRead r = (State.resetWith s.cfg).csrRead r)
            ∧ ((∃ o ∈ others, shareCsrOf s o r) → (∀ o ∈ others, shareCsrOf s o r → o.csrRead r = s.csrRead r) →
                u.csrRead r = s.csrRead r))
      ∧ (∀ i n v, act = .host i (.pokeCsr n v) → s.writtenBy act = if (s.pokeCsr n v).isSome then [n] else [])
      ∧ (∀ i m v, act = .host i (.pokeCsrNamed m v) → s.writtenBy act = match s.csrNamed m with
          | some r => if (s.pokeCsr r.num v).isSome then [r.num] else []
          | none => [])
      ∧ (∀ i c, act = .host i c → (∀ n v, c ≠ .pokeCsr n v) → (∀ m v, c ≠ .pokeCsrNamed m v) → s.writtenBy act = [])
      ∧ ∀ (j : Nat) (a b : State), act.hart ≠ j → y.harts[j]? = some a → z.harts[j]? = some b →
          let w := s.writtenBy act
          b = a.see w s u ∧ b = { a with mem := u.mem, clint := u.clint, tick := u.tick, csr := b.csr, trig := b.trig }
            ∧ (a.cfg.sharedWith u.cfg = [] → b.csr = a.csr ∧ b.trig = a.trig)
            ∧ (w = [] → (∀ r, s.csrRead r = u.csrRead r) → s.trig = u.trig → b.csr = a.csr ∧ b.trig = a.trig)
            ∧ ∀ r ∈ plainCsrs,
                (shareCsrOf a u r → r.num ∈ w ∨ s.csrRead r ≠ u.csrRead r ∨ a.csrRead r = s.csrRead r →
                  b.csrRead r = u.csrRead r)
                ∧ ((r.num ∉ w ∧ s.csrRead r = u.csrRead r) ∨ ¬ shareCsrOf a u r → b.csrRead r = a.csrRead r)
end

