-- ==== Sys2Proof/Laws/State.lean ====
section
/-! SUPPORT. One lemma per field per named update of the state: what the update leaves unchanged, and what it makes of
the fields it changes. -/

namespace Sys2Proof.Machine

/-! ## `setX` -/

@[simp] theorem State.setX_cfg (s : State) (r : Reg) (v : Word) : (s.setX r v).cfg = s.cfg := by unfold State.setX; split <;> rfl
@[simp] theorem State.setX_pc (s : State) (r : Reg) (v : Word) : (s.setX r v).pc = s.pc := by unfold State.setX; split <;> rfl
@[simp] theorem State.setX_priv (s : State) (r : Reg) (v : Word) : (s.setX r v).priv = s.priv := by unfold State.setX; split <;> rfl
@[simp] theorem State.setX_debugMode (s : State) (r : Reg) (v : Word) : (s.setX r v).debugMode = s.debugMode := by unfold State.setX; split <;> rfl
@[simp] theorem State.setX_csr (s : State) (r : Reg) (v : Word) : (s.setX r v).csr = s.csr := by unfold State.setX; split <;> rfl
@[simp] theorem State.setX_trig (s : State) (r : Reg) (v : Word) : (s.setX r v).trig = s.trig := by unfold State.setX; split <;> rfl
@[simp] theorem State.setX_nmiPending (s : State) (r : Reg) (v : Word) : (s.setX r v).nmiPending = s.nmiPending := by unfold State.setX; split <;> rfl
@[simp] theorem State.setX_nmiCause (s : State) (r : Reg) (v : Word) : (s.setX r v).nmiCause = s.nmiCause := by unfold State.setX; split <;> rfl
@[simp] theorem State.setX_mdseacLocked (s : State) (r : Reg) (v : Word) : (s.setX r v).mdseacLocked = s.mdseacLocked := by unfold State.setX; split <;> rfl
@[simp] theorem State.setX_debugHaltPending (s : State) (r : Reg) (v : Word) : (s.setX r v).debugHaltPending = s.debugHaltPending := by unfold State.setX; split <;> rfl
@[simp] theorem State.setX_stepPending (s : State) (r : Reg) (v : Word) : (s.setX r v).stepPending = s.stepPending := by unfold State.setX; split <;> rfl
@[simp] theorem State.setX_loadQueue (s : State) (r : Reg) (v : Word) : (s.setX r v).loadQueue = s.loadQueue := by unfold State.setX; split <;> rfl
@[simp] theorem State.setX_storeQueue (s : State) (r : Reg) (v : Word) : (s.setX r v).storeQueue = s.storeQueue := by unfold State.setX; split <;> rfl
@[simp] theorem State.setX_loadTag (s : State) (r : Reg) (v : Word) : (s.setX r v).loadTag = s.loadTag := by unfold State.setX; split <;> rfl
@[simp] theorem State.setX_clint (s : State) (r : Reg) (v : Word) : (s.setX r v).clint = s.clint := by unfold State.setX; split <;> rfl
@[simp] theorem State.setX_done (s : State) (r : Reg) (v : Word) : (s.setX r v).done = s.done := by unfold State.setX; split <;> rfl
@[simp] theorem State.setX_stopReason (s : State) (r : Reg) (v : Word) : (s.setX r v).stopReason = s.stopReason := by unfold State.setX; split <;> rfl
@[simp] theorem State.setX_execCount (s : State) (r : Reg) (v : Word) : (s.setX r v).execCount = s.execCount := by unfold State.setX; split <;> rfl
@[simp] theorem State.setX_counts (s : State) (r : Reg) (v : Word) : (s.setX r v).counts = s.counts := by unfold State.setX; split <;> rfl
@[simp] theorem State.setX_mem (s : State) (r : Reg) (v : Word) : (s.setX r v).mem = s.mem := by unfold State.setX; split <;> rfl
@[simp] theorem State.setX_consoleOut (s : State) (r : Reg) (v : Word) : (s.setX r v).consoleOut = s.consoleOut := by unfold State.setX; split <;> rfl
@[simp] theorem State.setX_ctx (s : State) (r : Reg) (v : Word) : (s.setX r v).ctx = s.ctx := by unfold State.setX; split <;> rfl
@[simp] theorem State.setX_tick (s : State) (r : Reg) (v : Word) : (s.setX r v).tick = s.tick := by unfold State.setX; split <;> rfl
@[simp] theorem State.setX_flushes (s : State) (r : Reg) (v : Word) : (s.setX r v).flushes = s.flushes := by unfold State.setX; split <;> rfl

/-! ## `startInstr` -/

@[simp] theorem State.startInstr_cfg (s : State) (len : Nat) : (s.startInstr len).cfg = s.cfg := rfl
@[simp] theorem State.startInstr_x (s : State) (len : Nat) : (s.startInstr len).x = s.x := rfl
@[simp] theorem State.startInstr_pc (s : State) (len : Nat) : (s.startInstr len).pc = s.pc := rfl
@[simp] theorem State.startInstr_priv (s : State) (len : Nat) : (s.startInstr len).priv = s.priv := rfl
@[simp] theorem State.startInstr_debugMode (s : State) (len : Nat) : (s.startInstr len).debugMode = s.debugMode := rfl
@[simp] theorem State.startInstr_csr (s : State) (len : Nat) : (s.startInstr len).csr = s.csr := rfl
@[simp] theorem State.startInstr_trig (s : State) (len : Nat) : (s.startInstr len).trig = s.trig := rfl
@[simp] theorem State.startInstr_nmiPending (s : State) (len : Nat) : (s.startInstr len).nmiPending = s.nmiPending := rfl
@[simp] theorem State.startInstr_nmiCause (s : State) (len : Nat) : (s.startInstr len).nmiCause = s.nmiCause := rfl
@[simp] theorem State.startInstr_mdseacLocked (s : State) (len : Nat) : (s.startInstr len).mdseacLocked = s.mdseacLocked := rfl
@[simp] theorem State.startInstr_debugHaltPending (s : State) (len : Nat) : (s.startInstr len).debugHaltPending = s.debugHaltPending := rfl
@[simp] theorem State.startInstr_stepPending (s : State) (len : Nat) : (s.startInstr len).stepPending = s.stepPending := rfl
@[simp] theorem State.startInstr_loadQueue (s : State) (len : Nat) : (s.startInstr len).loadQueue = s.loadQueue := rfl
@[simp] theorem State.startInstr_storeQueue (s : State) (len : Nat) : (s.startInstr len).storeQueue = s.storeQueue := rfl
@[simp] theorem State.startInstr_loadTag (s : State) (len : Nat) : (s.startInstr len).loadTag = s.loadTag := rfl
@[simp] theorem State.startInstr_clint (s : State) (len : Nat) : (s.startInstr len).clint = s.clint := rfl
@[simp] theorem State.startInstr_done (s : State) (len : Nat) : (s.startInstr len).done = s.done := rfl
@[simp] theorem State.startInstr_stopReason (s : State) (len : Nat) : (s.startInstr len).stopReason = s.stopReason := rfl
@[simp] theorem State.startInstr_execCount (s : State) (len : Nat) : (s.startInstr len).execCount = s.execCount := rfl
@[simp] theorem State.startInstr_counts (s : State) (len : Nat) : (s.startInstr len).counts = s.counts := rfl
@[simp] theorem State.startInstr_mem (s : State) (len : Nat) : (s.startInstr len).mem = s.mem := rfl
@[simp] theorem State.startInstr_consoleOut (s : State) (len : Nat) : (s.startInstr len).consoleOut = s.consoleOut := rfl
@[simp] theorem State.startInstr_tick (s : State) (len : Nat) : (s.startInstr len).tick = s.tick := rfl
@[simp] theorem State.startInstr_flushes (s : State) (len : Nat) : (s.startInstr len).flushes = s.flushes := rfl

/-! ## `writeX` -/

@[simp] theorem State.writeX_cfg (s : State) (r : Reg) (v : Word) : (s.writeX r v).cfg = s.cfg := by unfold State.writeX; exact State.setX_cfg s r v
@[simp] theorem State.writeX_pc (s : State) (r : Reg) (v : Word) : (s.writeX r v).pc = s.pc := by unfold State.writeX; exact State.setX_pc s r v
@[simp] theorem State.writeX_priv (s : State) (r : Reg) (v : Word) : (s.writeX r v).priv = s.priv := by unfold State.writeX; exact State.setX_priv s r v
@[simp] theorem State.writeX_debugMode (s : State) (r : Reg) (v : Word) : (s.writeX r v).debugMode = s.debugMode := by unfold State.writeX; exact State.setX_debugMode s r v
@[simp] theorem State.writeX_csr (s : State) (r : Reg) (v : Word) : (s.writeX r v).csr = s.csr := by unfold State.writeX; exact State.setX_csr s r v
@[simp] theorem State.writeX_trig (s : State) (r : Reg) (v : Word) : (s.writeX r v).trig = s.trig := by unfold State.writeX; exact State.setX_trig s r v
@[simp] theorem State.writeX_nmiPending (s : State) (r : Reg) (v : Word) : (s.writeX r v).nmiPending = s.nmiPending := by unfold State.writeX; exact State.setX_nmiPending s r v
@[simp] theorem State.writeX_nmiCause (s : State) (r : Reg) (v : Word) : (s.writeX r v).nmiCause = s.nmiCause := by unfold State.writeX; exact State.setX_nmiCause s r v
@[simp] theorem State.writeX_mdseacLocked (s : State) (r : Reg) (v : Word) : (s.writeX r v).mdseacLocked = s.mdseacLocked := by unfold State.writeX; exact State.setX_mdseacLocked s r v
@[simp] theorem State.writeX_debugHaltPending (s : State) (r : Reg) (v : Word) : (s.writeX r v).debugHaltPending = s.debugHaltPending := by unfold State.writeX; exact State.setX_debugHaltPending s r v
@[simp] theorem State.writeX_stepPending (s : State) (r : Reg) (v : Word) : (s.writeX r v).stepPending = s.stepPending := by unfold State.writeX; exact State.setX_stepPending s r v
@[simp] theorem State.writeX_loadQueue (s : State) (r : Reg) (v : Word) : (s.writeX r v).loadQueue = s.loadQueue := by unfold State.writeX; exact State.setX_loadQueue s r v
@[simp] theorem State.writeX_storeQueue (s : State) (r : Reg) (v : Word) : (s.writeX r v).storeQueue = s.storeQueue := by unfold State.writeX; exact State.setX_storeQueue s r v
@[simp] theorem State.writeX_loadTag (s : State) (r : Reg) (v : Word) : (s.writeX r v).loadTag = s.loadTag := by unfold State.writeX; exact State.setX_loadTag s r v
@[simp] theorem State.writeX_clint (s : State) (r : Reg) (v : Word) : (s.writeX r v).clint = s.clint := by unfold State.writeX; exact State.setX_clint s r v
@[simp] theorem State.writeX_done (s : State) (r : Reg) (v : Word) : (s.writeX r v).done = s.done := by unfold State.writeX; exact State.setX_done s r v
@[simp] theorem State.writeX_stopReason (s : State) (r : Reg) (v : Word) : (s.writeX r v).stopReason = s.stopReason := by unfold State.writeX; exact State.setX_stopReason s r v
@[simp] theorem State.writeX_execCount (s : State) (r : Reg) (v : Word) : (s.writeX r v).execCount = s.execCount := by unfold State.writeX; exact State.setX_execCount s r v
@[simp] theorem State.writeX_counts (s : State) (r : Reg) (v : Word) : (s.writeX r v).counts = s.counts := by unfold State.writeX; exact State.setX_counts s r v
@[simp] theorem State.writeX_mem (s : State) (r : Reg) (v : Word) : (s.writeX r v).mem = s.mem := by unfold State.writeX; exact State.setX_mem s r v
@[simp] theorem State.writeX_consoleOut (s : State) (r : Reg) (v : Word) : (s.writeX r v).consoleOut = s.consoleOut := by unfold State.writeX; exact State.setX_consoleOut s r v
@[simp] theorem State.writeX_tick (s : State) (r : Reg) (v : Word) : (s.writeX r v).tick = s.tick := by unfold State.writeX; exact State.setX_tick s r v
@[simp] theorem State.writeX_flushes (s : State) (r : Reg) (v : Word) : (s.writeX r v).flushes = s.flushes := by unfold State.writeX; exact State.setX_flushes s r v

/-! ## `setNextPc` -/

@[simp] theorem State.setNextPc_cfg (s : State) (t : Word) : (s.setNextPc t).cfg = s.cfg := rfl
@[simp] theorem State.setNextPc_x (s : State) (t : Word) : (s.setNextPc t).x = s.x := rfl
@[simp] theorem State.setNextPc_pc (s : State) (t : Word) : (s.setNextPc t).pc = s.pc := rfl
@[simp] theorem State.setNextPc_priv (s : State) (t : Word) : (s.setNextPc t).priv = s.priv := rfl
@[simp] theorem State.setNextPc_debugMode (s : State) (t : Word) : (s.setNextPc t).debugMode = s.debugMode := rfl
@[simp] theorem State.setNextPc_csr (s : State) (t : Word) : (s.setNextPc t).csr = s.csr := rfl
@[simp] theorem State.setNextPc_trig (s : State) (t : Word) : (s.setNextPc t).trig = s.trig := rfl
@[simp] theorem State.setNextPc_nmiPending (s : State) (t : Word) : (s.setNextPc t).nmiPending = s.nmiPending := rfl
@[simp] theorem State.setNextPc_nmiCause (s : State) (t : Word) : (s.setNextPc t).nmiCause = s.nmiCause := rfl
@[simp] theorem State.setNextPc_mdseacLocked (s : State) (t : Word) : (s.setNextPc t).mdseacLocked = s.mdseacLocked := rfl
@[simp] theorem State.setNextPc_debugHaltPending (s : State) (t : Word) : (s.setNextPc t).debugHaltPending = s.debugHaltPending := rfl
@[simp] theorem State.setNextPc_stepPending (s : State) (t : Word) : (s.setNextPc t).stepPending = s.stepPending := rfl
@[simp] theorem State.setNextPc_loadQueue (s : State) (t : Word) : (s.setNextPc t).loadQueue = s.loadQueue := rfl
@[simp] theorem State.setNextPc_storeQueue (s : State) (t : Word) : (s.setNextPc t).storeQueue = s.storeQueue := rfl
@[simp] theorem State.setNextPc_loadTag (s : State) (t : Word) : (s.setNextPc t).loadTag = s.loadTag := rfl
@[simp] theorem State.setNextPc_clint (s : State) (t : Word) : (s.setNextPc t).clint = s.clint := rfl
@[simp] theorem State.setNextPc_done (s : State) (t : Word) : (s.setNextPc t).done = s.done := rfl
@[simp] theorem State.setNextPc_stopReason (s : State) (t : Word) : (s.setNextPc t).stopReason = s.stopReason := rfl
@[simp] theorem State.setNextPc_execCount (s : State) (t : Word) : (s.setNextPc t).execCount = s.execCount := rfl
@[simp] theorem State.setNextPc_counts (s : State) (t : Word) : (s.setNextPc t).counts = s.counts := rfl
@[simp] theorem State.setNextPc_mem (s : State) (t : Word) : (s.setNextPc t).mem = s.mem := rfl
@[simp] theorem State.setNextPc_consoleOut (s : State) (t : Word) : (s.setNextPc t).consoleOut = s.consoleOut := rfl
@[simp] theorem State.setNextPc_tick (s : State) (t : Word) : (s.setNextPc t).tick = s.tick := rfl
@[simp] theorem State.setNextPc_flushes (s : State) (t : Word) : (s.setNextPc t).flushes = s.flushes := rfl

/-! ## `commit` -/

@[simp] theorem State.commit_cfg (s : State) : (s.commit).cfg = s.cfg := rfl
@[simp] theorem State.commit_x (s : State) : (s.commit).x = s.x := rfl
@[simp] theorem State.commit_priv (s : State) : (s.commit).priv = s.priv := rfl
@[simp] theorem State.commit_debugMode (s : State) : (s.commit).debugMode = s.debugMode := rfl
@[simp] theorem State.commit_csr (s : State) : (s.commit).csr = s.csr := rfl
@[simp] theorem State.commit_trig (s : State) : (s.commit).trig = s.trig := rfl
@[simp] theorem State.commit_nmiPending (s : State) : (s.commit).nmiPending = s.nmiPending := rfl
@[simp] theorem State.commit_nmiCause (s : State) : (s.commit).nmiCause = s.nmiCause := rfl
@[simp] theorem State.commit_mdseacLocked (s : State) : (s.commit).mdseacLocked = s.mdseacLocked := rfl
@[simp] theorem State.commit_debugHaltPending (s : State) : (s.commit).debugHaltPending = s.debugHaltPending := rfl
@[simp] theorem State.commit_stepPending (s : State) : (s.commit).stepPending = s.stepPending := rfl
@[simp] theorem State.commit_loadTag (s : State) : (s.commit).loadTag = s.loadTag := rfl
@[simp] theorem State.commit_clint (s : State) : (s.commit).clint = s.clint := rfl
@[simp] theorem State.commit_done (s : State) : (s.commit).done = s.done := rfl
@[simp] theorem State.commit_stopReason (s : State) : (s.commit).stopReason = s.stopReason := rfl
@[simp] theorem State.commit_execCount (s : State) : (s.commit).execCount = s.execCount := rfl
@[simp] theorem State.commit_counts (s : State) : (s.commit).counts = s.counts := rfl
@[simp] theorem State.commit_mem (s : State) : (s.commit).mem = s.mem := rfl
@[simp] theorem State.commit_tick (s : State) : (s.commit).tick = s.tick := rfl
@[simp] theorem State.commit_flushes (s : State) : (s.commit).flushes = s.flushes := rfl

/-! ## `undo` -/

@[simp] theorem State.undo_cfg (s : State) (t : State) : (s.undo t).cfg = s.cfg := rfl
@[simp] theorem State.undo_x (s : State) (t : State) : (s.undo t).x = s.x := rfl
@[simp] theorem State.undo_pc (s : State) (t : State) : (s.undo t).pc = s.pc := rfl
@[simp] theorem State.undo_priv (s : State) (t : State) : (s.undo t).priv = s.priv := rfl
@[simp] theorem State.undo_debugMode (s : State) (t : State) : (s.undo t).debugMode = s.debugMode := rfl
@[simp] theorem State.undo_csr (s : State) (t : State) : (s.undo t).csr = s.csr := rfl
@[simp] theorem State.undo_nmiPending (s : State) (t : State) : (s.undo t).nmiPending = s.nmiPending := rfl
@[simp] theorem State.undo_nmiCause (s : State) (t : State) : (s.undo t).nmiCause = s.nmiCause := rfl
@[simp] theorem State.undo_mdseacLocked (s : State) (t : State) : (s.undo t).mdseacLocked = s.mdseacLocked := rfl
@[simp] theorem State.undo_debugHaltPending (s : State) (t : State) : (s.undo t).debugHaltPending = s.debugHaltPending := rfl
@[simp] theorem State.undo_stepPending (s : State) (t : State) : (s.undo t).stepPending = s.stepPending := rfl
@[simp] theorem State.undo_loadQueue (s : State) (t : State) : (s.undo t).loadQueue = s.loadQueue := rfl
@[simp] theorem State.undo_storeQueue (s : State) (t : State) : (s.undo t).storeQueue = s.storeQueue := rfl
@[simp] theorem State.undo_loadTag (s : State) (t : State) : (s.undo t).loadTag = s.loadTag := rfl
@[simp] theorem State.undo_clint (s : State) (t : State) : (s.undo t).clint = s.clint := rfl
@[simp] theorem State.undo_done (s : State) (t : State) : (s.undo t).done = s.done := rfl
@[simp] theorem State.undo_stopReason (s : State) (t : State) : (s.undo t).stopReason = s.stopReason := rfl
@[simp] theorem State.undo_execCount (s : State) (t : State) : (s.undo t).execCount = s.execCount := rfl
@[simp] theorem State.undo_mem (s : State) (t : State) : (s.undo t).mem = s.mem := rfl
@[simp] theorem State.undo_consoleOut (s : State) (t : State) : (s.undo t).consoleOut = s.consoleOut := rfl
@[simp] theorem State.undo_flushes (s : State) (t : State) : (s.undo t).flushes = s.flushes := rfl

/-! ## `noteTrap` -/

@[simp] theorem State.noteTrap_cfg (s : State) (e : TrapEvent) : (s.noteTrap e).cfg = s.cfg := rfl
@[simp] theorem State.noteTrap_x (s : State) (e : TrapEvent) : (s.noteTrap e).x = s.x := rfl
@[simp] theorem State.noteTrap_pc (s : State) (e : TrapEvent) : (s.noteTrap e).pc = s.pc := rfl
@[simp] theorem State.noteTrap_priv (s : State) (e : TrapEvent) : (s.noteTrap e).priv = s.priv := rfl
@[simp] theorem State.noteTrap_debugMode (s : State) (e : TrapEvent) : (s.noteTrap e).debugMode = s.debugMode := rfl
@[simp] theorem State.noteTrap_csr (s : State) (e : TrapEvent) : (s.noteTrap e).csr = s.csr := rfl
@[simp] theorem State.noteTrap_trig (s : State) (e : TrapEvent) : (s.noteTrap e).trig = s.trig := rfl
@[simp] theorem State.noteTrap_nmiPending (s : State) (e : TrapEvent) : (s.noteTrap e).nmiPending = s.nmiPending := rfl
@[simp] theorem State.noteTrap_nmiCause (s : State) (e : TrapEvent) : (s.noteTrap e).nmiCause = s.nmiCause := rfl
@[simp] theorem State.noteTrap_mdseacLocked (s : State) (e : TrapEvent) : (s.noteTrap e).mdseacLocked = s.mdseacLocked := rfl
@[simp] theorem State.noteTrap_debugHaltPending (s : State) (e : TrapEvent) : (s.noteTrap e).debugHaltPending = s.debugHaltPending := rfl
@[simp] theorem State.noteTrap_stepPending (s : State) (e : TrapEvent) : (s.noteTrap e).stepPending = s.stepPending := rfl
@[simp] theorem State.noteTrap_loadQueue (s : State) (e : TrapEvent) : (s.noteTrap e).loadQueue = s.loadQueue := rfl
@[simp] theorem State.noteTrap_storeQueue (s : State) (e : TrapEvent) : (s.noteTrap e).storeQueue = s.storeQueue := rfl
@[simp] theorem State.noteTrap_loadTag (s : State) (e : TrapEvent) : (s.noteTrap e).loadTag = s.loadTag := rfl
@[simp] theorem State.noteTrap_clint (s : State) (e : TrapEvent) : (s.noteTrap e).clint = s.clint := rfl
@[simp] theorem State.noteTrap_done (s : State) (e : TrapEvent) : (s.noteTrap e).done = s.done := rfl
@[simp] theorem State.noteTrap_stopReason (s : State) (e : TrapEvent) : (s.noteTrap e).stopReason = s.stopReason := rfl
@[simp] theorem State.noteTrap_execCount (s : State) (e : TrapEvent) : (s.noteTrap e).execCount = s.execCount := rfl
@[simp] theorem State.noteTrap_mem (s : State) (e : TrapEvent) : (s.noteTrap e).mem = s.mem := rfl
@[simp] theorem State.noteTrap_consoleOut (s : State) (e : TrapEvent) : (s.noteTrap e).consoleOut = s.consoleOut := rfl
@[simp] theorem State.noteTrap_tick (s : State) (e : TrapEvent) : (s.noteTrap e).tick = s.tick := rfl
@[simp] theorem State.noteTrap_flushes (s : State) (e : TrapEvent) : (s.noteTrap e).flushes = s.flushes := rfl

/-! ## `enterM` -/

@[simp] theorem State.enterM_cfg (s : State) (e : TrapEvent) (p : Word) : (s.enterM e p).cfg = s.cfg := rfl
@[simp] theorem State.enterM_x (s : State) (e : TrapEvent) (p : Word) : (s.enterM e p).x = s.x := rfl
@[simp] theorem State.enterM_debugMode (s : State) (e : TrapEvent) (p : Word) : (s.enterM e p).debugMode = s.debugMode := rfl
@[simp] theorem State.enterM_trig (s : State) (e : TrapEvent) (p : Word) : (s.enterM e p).trig = s.trig := rfl
@[simp] theorem State.enterM_nmiPending (s : State) (e : TrapEvent) (p : Word) : (s.enterM e p).nmiPending = s.nmiPending := rfl
@[simp] theorem State.enterM_nmiCause (s : State) (e : TrapEvent) (p : Word) : (s.enterM e p).nmiCause = s.nmiCause := rfl
@[simp] theorem State.enterM_mdseacLocked (s : State) (e : TrapEvent) (p : Word) : (s.enterM e p).mdseacLocked = s.mdseacLocked := rfl
@[simp] theorem State.enterM_debugHaltPending (s : State) (e : TrapEvent) (p : Word) : (s.enterM e p).debugHaltPending = s.debugHaltPending := rfl
@[simp] theorem State.enterM_stepPending (s : State) (e : TrapEvent) (p : Word) : (s.enterM e p).stepPending = s.stepPending := rfl
@[simp] theorem State.enterM_loadQueue (s : State) (e : TrapEvent) (p : Word) : (s.enterM e p).loadQueue = s.loadQueue := rfl
@[simp] theorem State.enterM_storeQueue (s : State) (e : TrapEvent) (p : Word) : (s.enterM e p).storeQueue = s.storeQueue := rfl
@[simp] theorem State.enterM_loadTag (s : State) (e : TrapEvent) (p : Word) : (s.enterM e p).loadTag = s.loadTag := rfl
@[simp] theorem State.enterM_clint (s : State) (e : TrapEvent) (p : Word) : (s.enterM e p).clint = s.clint := rfl
@[simp] theorem State.enterM_done (s : State) (e : TrapEvent) (p : Word) : (s.enterM e p).done = s.done := rfl
@[simp] theorem State.enterM_stopReason (s : State) (e : TrapEvent) (p : Word) : (s.enterM e p).stopReason = s.stopReason := rfl
@[simp] theorem State.enterM_execCount (s : State) (e : TrapEvent) (p : Word) : (s.enterM e p).execCount = s.execCount := rfl
@[simp] theorem State.enterM_counts (s : State) (e : TrapEvent) (p : Word) : (s.enterM e p).counts = s.counts := rfl
@[simp] theorem State.enterM_mem (s : State) (e : TrapEvent) (p : Word) : (s.enterM e p).mem = s.mem := rfl
@[simp] theorem State.enterM_consoleOut (s : State) (e : TrapEvent) (p : Word) : (s.enterM e p).consoleOut = s.consoleOut := rfl
@[simp] theorem State.enterM_ctx (s : State) (e : TrapEvent) (p : Word) : (s.enterM e p).ctx = s.ctx := rfl
@[simp] theorem State.enterM_tick (s : State) (e : TrapEvent) (p : Word) : (s.enterM e p).tick = s.tick := rfl
@[simp] theorem State.enterM_flushes (s : State) (e : TrapEvent) (p : Word) : (s.enterM e p).flushes = s.flushes := rfl

/-! ## `enterS` -/

@[simp] theorem State.enterS_cfg (s : State) (e : TrapEvent) : (s.enterS e).cfg = s.cfg := rfl
@[simp] theorem State.enterS_x (s : State) (e : TrapEvent) : (s.enterS e).x = s.x := rfl
@[simp] theorem State.enterS_debugMode (s : State) (e : TrapEvent) : (s.enterS e).debugMode = s.debugMode := rfl
@[simp] theorem State.enterS_trig (s : State) (e : TrapEvent) : (s.enterS e).trig = s.trig := rfl
@[simp] theorem State.enterS_nmiPending (s : State) (e : TrapEvent) : (s.enterS e).nmiPending = s.nmiPending := rfl
@[simp] theorem State.enterS_nmiCause (s : State) (e : TrapEvent) : (s.enterS e).nmiCause = s.nmiCause := rfl
@[simp] theorem State.enterS_mdseacLocked (s : State) (e : TrapEvent) : (s.enterS e).mdseacLocked = s.mdseacLocked := rfl
@[simp] theorem State.enterS_debugHaltPending (s : State) (e : TrapEvent) : (s.enterS e).debugHaltPending = s.debugHaltPending := rfl
@[simp] theorem State.enterS_stepPending (s : State) (e : TrapEvent) : (s.enterS e).stepPending = s.stepPending := rfl
@[simp] theorem State.enterS_loadQueue (s : State) (e : TrapEvent) : (s.enterS e).loadQueue = s.loadQueue := rfl
@[simp] theorem State.enterS_storeQueue (s : State) (e : TrapEvent) : (s.enterS e).storeQueue = s.storeQueue := rfl
@[simp] theorem State.enterS_loadTag (s : State) (e : TrapEvent) : (s.enterS e).loadTag = s.loadTag := rfl
@[simp] theorem State.enterS_clint (s : State) (e : TrapEvent) : (s.enterS e).clint = s.clint := rfl
@[simp] theorem State.enterS_done (s : State) (e : TrapEvent) : (s.enterS e).done = s.done := rfl
@[simp] theorem State.enterS_stopReason (s : State) (e : TrapEvent) : (s.enterS e).stopReason = s.stopReason := rfl
@[simp] theorem State.enterS_execCount (s : State) (e : TrapEvent) : (s.enterS e).execCount = s.execCount := rfl
@[simp] theorem State.enterS_counts (s : State) (e : TrapEvent) : (s.enterS e).counts = s.counts := rfl
@[simp] theorem State.enterS_mem (s : State) (e : TrapEvent) : (s.enterS e).mem = s.mem := rfl
@[simp] theorem State.enterS_consoleOut (s : State) (e : TrapEvent) : (s.enterS e).consoleOut = s.consoleOut := rfl
@[simp] theorem State.enterS_ctx (s : State) (e : TrapEvent) : (s.enterS e).ctx = s.ctx := rfl
@[simp] theorem State.enterS_tick (s : State) (e : TrapEvent) : (s.enterS e).tick = s.tick := rfl
@[simp] theorem State.enterS_flushes (s : State) (e : TrapEvent) : (s.enterS e).flushes = s.flushes := rfl

/-! ## `takeNmi` -/

@[simp] theorem State.takeNmi_cfg (s : State) : (s.takeNmi).cfg = s.cfg := rfl
@[simp] theorem State.takeNmi_x (s : State) : (s.takeNmi).x = s.x := rfl
@[simp] theorem State.takeNmi_debugMode (s : State) : (s.takeNmi).debugMode = s.debugMode := rfl
@[simp] theorem State.takeNmi_trig (s : State) : (s.takeNmi).trig = s.trig := rfl
@[simp] theorem State.takeNmi_nmiCause (s : State) : (s.takeNmi).nmiCause = s.nmiCause := rfl
@[simp] theorem State.takeNmi_mdseacLocked (s : State) : (s.takeNmi).mdseacLocked = s.mdseacLocked := rfl
@[simp] theorem State.takeNmi_debugHaltPending (s : State) : (s.takeNmi).debugHaltPending = s.debugHaltPending := rfl
@[simp] theorem State.takeNmi_stepPending (s : State) : (s.takeNmi).stepPending = s.stepPending := rfl
@[simp] theorem State.takeNmi_loadQueue (s : State) : (s.takeNmi).loadQueue = s.loadQueue := rfl
@[simp] theorem State.takeNmi_storeQueue (s : State) : (s.takeNmi).storeQueue = s.storeQueue := rfl
@[simp] theorem State.takeNmi_loadTag (s : State) : (s.takeNmi).loadTag = s.loadTag := rfl
@[simp] theorem State.takeNmi_clint (s : State) : (s.takeNmi).clint = s.clint := rfl
@[simp] theorem State.takeNmi_done (s : State) : (s.takeNmi).done = s.done := rfl
@[simp] theorem State.takeNmi_stopReason (s : State) : (s.takeNmi).stopReason = s.stopReason := rfl
@[simp] theorem State.takeNmi_execCount (s : State) : (s.takeNmi).execCount = s.execCount := rfl
@[simp] theorem State.takeNmi_mem (s : State) : (s.takeNmi).mem = s.mem := rfl
@[simp] theorem State.takeNmi_consoleOut (s : State) : (s.takeNmi).consoleOut = s.consoleOut := rfl
@[simp] theorem State.takeNmi_tick (s : State) : (s.takeNmi).tick = s.tick := rfl
@[simp] theorem State.takeNmi_flushes (s : State) : (s.takeNmi).flushes = s.flushes := rfl

/-! ## `enterDebug` -/

@[simp] theorem State.enterDebug_cfg (s : State) (c : DebugCause) (p : Word) : (s.enterDebug c p).cfg = s.cfg := rfl
@[simp] theorem State.enterDebug_x (s : State) (c : DebugCause) (p : Word) : (s.enterDebug c p).x = s.x := rfl
@[simp] theorem State.enterDebug_pc (s : State) (c : DebugCause) (p : Word) : (s.enterDebug c p).pc = s.pc := rfl
@[simp] theorem State.enterDebug_priv (s : State) (c : DebugCause) (p : Word) : (s.enterDebug c p).priv = s.priv := rfl
@[simp] theorem State.enterDebug_trig (s : State) (c : DebugCause) (p : Word) : (s.enterDebug c p).trig = s.trig := rfl
@[simp] theorem State.enterDebug_nmiPending (s : State) (c : DebugCause) (p : Word) : (s.enterDebug c p).nmiPending = s.nmiPending := rfl
@[simp] theorem State.enterDebug_nmiCause (s : State) (c : DebugCause) (p : Word) : (s.enterDebug c p).nmiCause = s.nmiCause := rfl
@[simp] theorem State.enterDebug_mdseacLocked (s : State) (c : DebugCause) (p : Word) : (s.enterDebug c p).mdseacLocked = s.mdseacLocked := rfl
@[simp] theorem State.enterDebug_loadQueue (s : State) (c : DebugCause) (p : Word) : (s.enterDebug c p).loadQueue = s.loadQueue := rfl
@[simp] theorem State.enterDebug_storeQueue (s : State) (c : DebugCause) (p : Word) : (s.enterDebug c p).storeQueue = s.storeQueue := rfl
@[simp] theorem State.enterDebug_loadTag (s : State) (c : DebugCause) (p : Word) : (s.enterDebug c p).loadTag = s.loadTag := rfl
@[simp] theorem State.enterDebug_clint (s : State) (c : DebugCause) (p : Word) : (s.enterDebug c p).clint = s.clint := rfl
@[simp] theorem State.enterDebug_done (s : State) (c : DebugCause) (p : Word) : (s.enterDebug c p).done = s.done := rfl
@[simp] theorem State.enterDebug_stopReason (s : State) (c : DebugCause) (p : Word) : (s.enterDebug c p).stopReason = s.stopReason := rfl
@[simp] theorem State.enterDebug_execCount (s : State) (c : DebugCause) (p : Word) : (s.enterDebug c p).execCount = s.execCount := rfl
@[simp] theorem State.enterDebug_counts (s : State) (c : DebugCause) (p : Word) : (s.enterDebug c p).counts = s.counts := rfl
@[simp] theorem State.enterDebug_mem (s : State) (c : DebugCause) (p : Word) : (s.enterDebug c p).mem = s.mem := rfl
@[simp] theorem State.enterDebug_consoleOut (s : State) (c : DebugCause) (p : Word) : (s.enterDebug c p).consoleOut = s.consoleOut := rfl
@[simp] theorem State.enterDebug_tick (s : State) (c : DebugCause) (p : Word) : (s.enterDebug c p).tick = s.tick := rfl
@[simp] theorem State.enterDebug_flushes (s : State) (c : DebugCause) (p : Word) : (s.enterDebug c p).flushes = s.flushes := rfl

/-! ## `returnM` -/

@[simp] theorem State.returnM_cfg (s : State) : (s.returnM).cfg = s.cfg := rfl
@[simp] theorem State.returnM_x (s : State) : (s.returnM).x = s.x := rfl
@[simp] theorem State.returnM_pc (s : State) : (s.returnM).pc = s.pc := rfl
@[simp] theorem State.returnM_debugMode (s : State) : (s.returnM).debugMode = s.debugMode := rfl
@[simp] theorem State.returnM_trig (s : State) : (s.returnM).trig = s.trig := rfl
@[simp] theorem State.returnM_nmiPending (s : State) : (s.returnM).nmiPending = s.nmiPending := rfl
@[simp] theorem State.returnM_nmiCause (s : State) : (s.returnM).nmiCause = s.nmiCause := rfl
@[simp] theorem State.returnM_mdseacLocked (s : State) : (s.returnM).mdseacLocked = s.mdseacLocked := rfl
@[simp] theorem State.returnM_debugHaltPending (s : State) : (s.returnM).debugHaltPending = s.debugHaltPending := rfl
@[simp] theorem State.returnM_stepPending (s : State) : (s.returnM).stepPending = s.stepPending := rfl
@[simp] theorem State.returnM_loadQueue (s : State) : (s.returnM).loadQueue = s.loadQueue := rfl
@[simp] theorem State.returnM_storeQueue (s : State) : (s.returnM).storeQueue = s.storeQueue := rfl
@[simp] theorem State.returnM_loadTag (s : State) : (s.returnM).loadTag = s.loadTag := rfl
@[simp] theorem State.returnM_clint (s : State) : (s.returnM).clint = s.clint := rfl
@[simp] theorem State.returnM_done (s : State) : (s.returnM).done = s.done := rfl
@[simp] theorem State.returnM_stopReason (s : State) : (s.returnM).stopReason = s.stopReason := rfl
@[simp] theorem State.returnM_execCount (s : State) : (s.returnM).execCount = s.execCount := rfl
@[simp] theorem State.returnM_counts (s : State) : (s.returnM).counts = s.counts := rfl
@[simp] theorem State.returnM_mem (s : State) : (s.returnM).mem = s.mem := rfl
@[simp] theorem State.returnM_consoleOut (s : State) : (s.returnM).consoleOut = s.consoleOut := rfl
@[simp] theorem State.returnM_tick (s : State) : (s.returnM).tick = s.tick := rfl
@[simp] theorem State.returnM_flushes (s : State) : (s.returnM).flushes = s.flushes := rfl

/-! ## `returnS` -/

@[simp] theorem State.returnS_cfg (s : State) : (s.returnS).cfg = s.cfg := rfl
@[simp] theorem State.returnS_x (s : State) : (s.returnS).x = s.x := rfl
@[simp] theorem State.returnS_pc (s : State) : (s.returnS).pc = s.pc := rfl
@[simp] theorem State.returnS_debugMode (s : State) : (s.returnS).debugMode = s.debugMode := rfl
@[simp] theorem State.returnS_trig (s : State) : (s.returnS).trig = s.trig := rfl
@[simp] theorem State.returnS_nmiPending (s : State) : (s.returnS).nmiPending = s.nmiPending := rfl
@[simp] theorem State.returnS_nmiCause (s : State) : (s.returnS).nmiCause = s.nmiCause := rfl
@[simp] theorem State.returnS_mdseacLocked (s : State) : (s.returnS).mdseacLocked = s.mdseacLocked := rfl
@[simp] theorem State.returnS_debugHaltPending (s : State) : (s.returnS).debugHaltPending = s.debugHaltPending := rfl
@[simp] theorem State.returnS_stepPending (s : State) : (s.returnS).stepPending = s.stepPending := rfl
@[simp] theorem State.returnS_loadQueue (s : State) : (s.returnS).loadQueue = s.loadQueue := rfl
@[simp] theorem State.returnS_storeQueue (s : State) : (s.returnS).storeQueue = s.storeQueue := rfl
@[simp] theorem State.returnS_loadTag (s : State) : (s.returnS).loadTag = s.loadTag := rfl
@[simp] theorem State.returnS_clint (s : State) : (s.returnS).clint = s.clint := rfl
@[simp] theorem State.returnS_done (s : State) : (s.returnS).done = s.done := rfl
@[simp] theorem State.returnS_stopReason (s : State) : (s.returnS).stopReason = s.stopReason := rfl
@[simp] theorem State.returnS_execCount (s : State) : (s.returnS).execCount = s.execCount := rfl
@[simp] theorem State.returnS_counts (s : State) : (s.returnS).counts = s.counts := rfl
@[simp] theorem State.returnS_mem (s : State) : (s.returnS).mem = s.mem := rfl
@[simp] theorem State.returnS_consoleOut (s : State) : (s.returnS).consoleOut = s.consoleOut := rfl
@[simp] theorem State.returnS_tick (s : State) : (s.returnS).tick = s.tick := rfl
@[simp] theorem State.returnS_flushes (s : State) : (s.returnS).flushes = s.flushes := rfl

/-! ## `addAfter` -/

@[simp] theorem State.addAfter_cfg (s : State) (ts : List Trip) : (s.addAfter ts).cfg = s.cfg := rfl
@[simp] theorem State.addAfter_x (s : State) (ts : List Trip) : (s.addAfter ts).x = s.x := rfl
@[simp] theorem State.addAfter_pc (s : State) (ts : List Trip) : (s.addAfter ts).pc = s.pc := rfl
@[simp] theorem State.addAfter_priv (s : State) (ts : List Trip) : (s.addAfter ts).priv = s.priv := rfl
@[simp] theorem State.addAfter_debugMode (s : State) (ts : List Trip) : (s.addAfter ts).debugMode = s.debugMode := rfl
@[simp] theorem State.addAfter_csr (s : State) (ts : List Trip) : (s.addAfter ts).csr = s.csr := rfl
@[simp] theorem State.addAfter_trig (s : State) (ts : List Trip) : (s.addAfter ts).trig = s.trig := rfl
@[simp] theorem State.addAfter_nmiPending (s : State) (ts : List Trip) : (s.addAfter ts).nmiPending = s.nmiPending := rfl
@[simp] theorem State.addAfter_nmiCause (s : State) (ts : List Trip) : (s.addAfter ts).nmiCause = s.nmiCause := rfl
@[simp] theorem State.addAfter_mdseacLocked (s : State) (ts : List Trip) : (s.addAfter ts).mdseacLocked = s.mdseacLocked := rfl
@[simp] theorem State.addAfter_debugHaltPending (s : State) (ts : List Trip) : (s.addAfter ts).debugHaltPending = s.debugHaltPending := rfl
@[simp] theorem State.addAfter_stepPending (s : State) (ts : List Trip) : (s.addAfter ts).stepPending = s.stepPending := rfl
@[simp] theorem State.addAfter_loadQueue (s : State) (ts : List Trip) : (s.addAfter ts).loadQueue = s.loadQueue := rfl
@[simp] theorem State.addAfter_storeQueue (s : State) (ts : List Trip) : (s.addAfter ts).storeQueue = s.storeQueue := rfl
@[simp] theorem State.addAfter_loadTag (s : State) (ts : List Trip) : (s.addAfter ts).loadTag = s.loadTag := rfl
@[simp] theorem State.addAfter_clint (s : State) (ts : List Trip) : (s.addAfter ts).clint = s.clint := rfl
@[simp] theorem State.addAfter_done (s : State) (ts : List Trip) : (s.addAfter ts).done = s.done := rfl
@[simp] theorem State.addAfter_stopReason (s : State) (ts : List Trip) : (s.addAfter ts).stopReason = s.stopReason := rfl
@[simp] theorem State.addAfter_execCount (s : State) (ts : List Trip) : (s.addAfter ts).execCount = s.execCount := rfl
@[simp] theorem State.addAfter_counts (s : State) (ts : List Trip) : (s.addAfter ts).counts = s.counts := rfl
@[simp] theorem State.addAfter_mem (s : State) (ts : List Trip) : (s.addAfter ts).mem = s.mem := rfl
@[simp] theorem State.addAfter_consoleOut (s : State) (ts : List Trip) : (s.addAfter ts).consoleOut = s.consoleOut := rfl
@[simp] theorem State.addAfter_tick (s : State) (ts : List Trip) : (s.addAfter ts).tick = s.tick := rfl
@[simp] theorem State.addAfter_flushes (s : State) (ts : List Trip) : (s.addAfter ts).flushes = s.flushes := rfl

/-! ## `noteStore` -/

@[simp] theorem State.noteStore_cfg (s : State) (n : Nat) (a v : Word) (w : Written) : (s.noteStore n a v w).cfg = s.cfg := rfl
@[simp] theorem State.noteStore_x (s : State) (n : Nat) (a v : Word) (w : Written) : (s.noteStore n a v w).x = s.x := rfl
@[simp] theorem State.noteStore_pc (s : State) (n : Nat) (a v : Word) (w : Written) : (s.noteStore n a v w).pc = s.pc := rfl
@[simp] theorem State.noteStore_priv (s : State) (n : Nat) (a v : Word) (w : Written) : (s.noteStore n a v w).priv = s.priv := rfl
@[simp] theorem State.noteStore_debugMode (s : State) (n : Nat) (a v : Word) (w : Written) : (s.noteStore n a v w).debugMode = s.debugMode := rfl
@[simp] theorem State.noteStore_csr (s : State) (n : Nat) (a v : Word) (w : Written) : (s.noteStore n a v w).csr = s.csr := rfl
@[simp] theorem State.noteStore_trig (s : State) (n : Nat) (a v : Word) (w : Written) : (s.noteStore n a v w).trig = s.trig := rfl
@[simp] theorem State.noteStore_nmiPending (s : State) (n : Nat) (a v : Word) (w : Written) : (s.noteStore n a v w).nmiPending = s.nmiPending := rfl
@[simp] theorem State.noteStore_nmiCause (s : State) (n : Nat) (a v : Word) (w : Written) : (s.noteStore n a v w).nmiCause = s.nmiCause := rfl
@[simp] theorem State.noteStore_mdseacLocked (s : State) (n : Nat) (a v : Word) (w : Written) : (s.noteStore n a v w).mdseacLocked = s.mdseacLocked := rfl
@[simp] theorem State.noteStore_debugHaltPending (s : State) (n : Nat) (a v : Word) (w : Written) : (s.noteStore n a v w).debugHaltPending = s.debugHaltPending := rfl
@[simp] theorem State.noteStore_stepPending (s : State) (n : Nat) (a v : Word) (w : Written) : (s.noteStore n a v w).stepPending = s.stepPending := rfl
@[simp] theorem State.noteStore_loadQueue (s : State) (n : Nat) (a v : Word) (w : Written) : (s.noteStore n a v w).loadQueue = s.loadQueue := rfl
@[simp] theorem State.noteStore_storeQueue (s : State) (n : Nat) (a v : Word) (w : Written) : (s.noteStore n a v w).storeQueue = s.storeQueue := rfl
@[simp] theorem State.noteStore_loadTag (s : State) (n : Nat) (a v : Word) (w : Written) : (s.noteStore n a v w).loadTag = s.loadTag := rfl
@[simp] theorem State.noteStore_clint (s : State) (n : Nat) (a v : Word) (w : Written) : (s.noteStore n a v w).clint = s.clint := rfl
@[simp] theorem State.noteStore_done (s : State) (n : Nat) (a v : Word) (w : Written) : (s.noteStore n a v w).done = s.done := rfl
@[simp] theorem State.noteStore_stopReason (s : State) (n : Nat) (a v : Word) (w : Written) : (s.noteStore n a v w).stopReason = s.stopReason := rfl
@[simp] theorem State.noteStore_execCount (s : State) (n : Nat) (a v : Word) (w : Written) : (s.noteStore n a v w).execCount = s.execCount := rfl
@[simp] theorem State.noteStore_counts (s : State) (n : Nat) (a v : Word) (w : Written) : (s.noteStore n a v w).counts = s.counts := rfl
@[simp] theorem State.noteStore_mem (s : State) (n : Nat) (a v : Word) (w : Written) : (s.noteStore n a v w).mem = s.mem := rfl
@[simp] theorem State.noteStore_consoleOut (s : State) (n : Nat) (a v : Word) (w : Written) : (s.noteStore n a v w).consoleOut = s.consoleOut := rfl
@[simp] theorem State.noteStore_tick (s : State) (n : Nat) (a v : Word) (w : Written) : (s.noteStore n a v w).tick = s.tick := rfl
@[simp] theorem State.noteStore_flushes (s : State) (n : Nat) (a v : Word) (w : Written) : (s.noteStore n a v w).flushes = s.flushes := rfl

/-! ## `updateSlot` -/

@[simp] theorem State.updateSlot_cfg (s : State) (i : Nat) (f : TrigSlot → TrigSlot) : (s.updateSlot i f).cfg = s.cfg := rfl
@[simp] theorem State.updateSlot_x (s : State) (i : Nat) (f : TrigSlot → TrigSlot) : (s.updateSlot i f).x = s.x := rfl
@[simp] theorem State.updateSlot_pc (s : State) (i : Nat) (f : TrigSlot → TrigSlot) : (s.updateSlot i f).pc = s.pc := rfl
@[simp] theorem State.updateSlot_priv (s : State) (i : Nat) (f : TrigSlot → TrigSlot) : (s.updateSlot i f).priv = s.priv := rfl
@[simp] theorem State.updateSlot_debugMode (s : State) (i : Nat) (f : TrigSlot → TrigSlot) : (s.updateSlot i f).debugMode = s.debugMode := rfl
@[simp] theorem State.updateSlot_csr (s : State) (i : Nat) (f : TrigSlot → TrigSlot) : (s.updateSlot i f).csr = s.csr := rfl
@[simp] theorem State.updateSlot_nmiPending (s : State) (i : Nat) (f : TrigSlot → TrigSlot) : (s.updateSlot i f).nmiPending = s.nmiPending := rfl
@[simp] theorem State.updateSlot_nmiCause (s : State) (i : Nat) (f : TrigSlot → TrigSlot) : (s.updateSlot i f).nmiCause = s.nmiCause := rfl
@[simp] theorem State.updateSlot_mdseacLocked (s : State) (i : Nat) (f : TrigSlot → TrigSlot) : (s.updateSlot i f).mdseacLocked = s.mdseacLocked := rfl
@[simp] theorem State.updateSlot_debugHaltPending (s : State) (i : Nat) (f : TrigSlot → TrigSlot) : (s.updateSlot i f).debugHaltPending = s.debugHaltPending := rfl
@[simp] theorem State.updateSlot_stepPending (s : State) (i : Nat) (f : TrigSlot → TrigSlot) : (s.updateSlot i f).stepPending = s.stepPending := rfl
@[simp] theorem State.updateSlot_loadQueue (s : State) (i : Nat) (f : TrigSlot → TrigSlot) : (s.updateSlot i f).loadQueue = s.loadQueue := rfl
@[simp] theorem State.updateSlot_storeQueue (s : State) (i : Nat) (f : TrigSlot → TrigSlot) : (s.updateSlot i f).storeQueue = s.storeQueue := rfl
@[simp] theorem State.updateSlot_loadTag (s : State) (i : Nat) (f : TrigSlot → TrigSlot) : (s.updateSlot i f).loadTag = s.loadTag := rfl
@[simp] theorem State.updateSlot_clint (s : State) (i : Nat) (f : TrigSlot → TrigSlot) : (s.updateSlot i f).clint = s.clint := rfl
@[simp] theorem State.updateSlot_done (s : State) (i : Nat) (f : TrigSlot → TrigSlot) : (s.updateSlot i f).done = s.done := rfl
@[simp] theorem State.updateSlot_stopReason (s : State) (i : Nat) (f : TrigSlot → TrigSlot) : (s.updateSlot i f).stopReason = s.stopReason := rfl
@[simp] theorem State.updateSlot_execCount (s : State) (i : Nat) (f : TrigSlot → TrigSlot) : (s.updateSlot i f).execCount = s.execCount := rfl
@[simp] theorem State.updateSlot_counts (s : State) (i : Nat) (f : TrigSlot → TrigSlot) : (s.updateSlot i f).counts = s.counts := rfl
@[simp] theorem State.updateSlot_mem (s : State) (i : Nat) (f : TrigSlot → TrigSlot) : (s.updateSlot i f).mem = s.mem := rfl
@[simp] theorem State.updateSlot_consoleOut (s : State) (i : Nat) (f : TrigSlot → TrigSlot) : (s.updateSlot i f).consoleOut = s.consoleOut := rfl
@[simp] theorem State.updateSlot_ctx (s : State) (i : Nat) (f : TrigSlot → TrigSlot) : (s.updateSlot i f).ctx = s.ctx := rfl
@[simp] theorem State.updateSlot_tick (s : State) (i : Nat) (f : TrigSlot → TrigSlot) : (s.updateSlot i f).tick = s.tick := rfl
@[simp] theorem State.updateSlot_flushes (s : State) (i : Nat) (f : TrigSlot → TrigSlot) : (s.updateSlot i f).flushes = s.flushes := rfl

/-! ## `sampleInputs` -/

@[simp] theorem State.sampleInputs_cfg (s : State) : (s.sampleInputs).cfg = s.cfg := by unfold State.sampleInputs; split <;> rfl
@[simp] theorem State.sampleInputs_x (s : State) : (s.sampleInputs).x = s.x := by unfold State.sampleInputs; split <;> rfl
@[simp] theorem State.sampleInputs_pc (s : State) : (s.sampleInputs).pc = s.pc := by unfold State.sampleInputs; split <;> rfl
@[simp] theorem State.sampleInputs_priv (s : State) : (s.sampleInputs).priv = s.priv := by unfold State.sampleInputs; split <;> rfl
@[simp] theorem State.sampleInputs_debugMode (s : State) : (s.sampleInputs).debugMode = s.debugMode := by unfold State.sampleInputs; split <;> rfl
@[simp] theorem State.sampleInputs_trig (s : State) : (s.sampleInputs).trig = s.trig := by unfold State.sampleInputs; split <;> rfl
@[simp] theorem State.sampleInputs_nmiPending (s : State) : (s.sampleInputs).nmiPending = s.nmiPending := by unfold State.sampleInputs; split <;> rfl
@[simp] theorem State.sampleInputs_nmiCause (s : State) : (s.sampleInputs).nmiCause = s.nmiCause := by unfold State.sampleInputs; split <;> rfl
@[simp] theorem State.sampleInputs_mdseacLocked (s : State) : (s.sampleInputs).mdseacLocked = s.mdseacLocked := by unfold State.sampleInputs; split <;> rfl
@[simp] theorem State.sampleInputs_debugHaltPending (s : State) : (s.sampleInputs).debugHaltPending = s.debugHaltPending := by unfold State.sampleInputs; split <;> rfl
@[simp] theorem State.sampleInputs_stepPending (s : State) : (s.sampleInputs).stepPending = s.stepPending := by unfold State.sampleInputs; split <;> rfl
@[simp] theorem State.sampleInputs_loadQueue (s : State) : (s.sampleInputs).loadQueue = s.loadQueue := by unfold State.sampleInputs; split <;> rfl
@[simp] theorem State.sampleInputs_storeQueue (s : State) : (s.sampleInputs).storeQueue = s.storeQueue := by unfold State.sampleInputs; split <;> rfl
@[simp] theorem State.sampleInputs_loadTag (s : State) : (s.sampleInputs).loadTag = s.loadTag := by unfold State.sampleInputs; split <;> rfl
@[simp] theorem State.sampleInputs_clint (s : State) : (s.sampleInputs).clint = s.clint := by unfold State.sampleInputs; split <;> rfl
@[simp] theorem State.sampleInputs_done (s : State) : (s.sampleInputs).done = s.done := by unfold State.sampleInputs; split <;> rfl
@[simp] theorem State.sampleInputs_stopReason (s : State) : (s.sampleInputs).stopReason = s.stopReason := by unfold State.sampleInputs; split <;> rfl
@[simp] theorem State.sampleInputs_execCount (s : State) : (s.sampleInputs).execCount = s.execCount := by unfold State.sampleInputs; split <;> rfl
@[simp] theorem State.sampleInputs_counts (s : State) : (s.sampleInputs).counts = s.counts := by unfold State.sampleInputs; split <;> rfl
@[simp] theorem State.sampleInputs_mem (s : State) : (s.sampleInputs).mem = s.mem := by unfold State.sampleInputs; split <;> rfl
@[simp] theorem State.sampleInputs_consoleOut (s : State) : (s.sampleInputs).consoleOut = s.consoleOut := by unfold State.sampleInputs; split <;> rfl
@[simp] theorem State.sampleInputs_ctx (s : State) : (s.sampleInputs).ctx = s.ctx := by unfold State.sampleInputs; split <;> rfl
@[simp] theorem State.sampleInputs_tick (s : State) : (s.sampleInputs).tick = s.tick := by unfold State.sampleInputs; split <;> rfl
@[simp] theorem State.sampleInputs_flushes (s : State) : (s.sampleInputs).flushes = s.flushes := by unfold State.sampleInputs; split <;> rfl

/-! ## `touch` -/

@[simp] theorem State.touch_cfg (s : State) (ps : List Word) : (s.touch ps).cfg = s.cfg := by unfold State.touch; split <;> rfl
@[simp] theorem State.touch_x (s : State) (ps : List Word) : (s.touch ps).x = s.x := by unfold State.touch; split <;> rfl
@[simp] theorem State.touch_pc (s : State) (ps : List Word) : (s.touch ps).pc = s.pc := by unfold State.touch; split <;> rfl
@[simp] theorem State.touch_priv (s : State) (ps : List Word) : (s.touch ps).priv = s.priv := by unfold State.touch; split <;> rfl
@[simp] theorem State.touch_debugMode (s : State) (ps : List Word) : (s.touch ps).debugMode = s.debugMode := by unfold State.touch; split <;> rfl
@[simp] theorem State.touch_csr (s : State) (ps : List Word) : (s.touch ps).csr = s.csr := by unfold State.touch; split <;> rfl
@[simp] theorem State.touch_trig (s : State) (ps : List Word) : (s.touch ps).trig = s.trig := by unfold State.touch; split <;> rfl
@[simp] theorem State.touch_nmiPending (s : State) (ps : List Word) : (s.touch ps).nmiPending = s.nmiPending := by unfold State.touch; split <;> rfl
@[simp] theorem State.touch_nmiCause (s : State) (ps : List Word) : (s.touch ps).nmiCause = s.nmiCause := by unfold State.touch; split <;> rfl
@[simp] theorem State.touch_mdseacLocked (s : State) (ps : List Word) : (s.touch ps).mdseacLocked = s.mdseacLocked := by unfold State.touch; split <;> rfl
@[simp] theorem State.touch_debugHaltPending (s : State) (ps : List Word) : (s.touch ps).debugHaltPending = s.debugHaltPending := by unfold State.touch; split <;> rfl
@[simp] theorem State.touch_stepPending (s : State) (ps : List Word) : (s.touch ps).stepPending = s.stepPending := by unfold State.touch; split <;> rfl
@[simp] theorem State.touch_loadQueue (s : State) (ps : List Word) : (s.touch ps).loadQueue = s.loadQueue := by unfold State.touch; split <;> rfl
@[simp] theorem State.touch_storeQueue (s : State) (ps : List Word) : (s.touch ps).storeQueue = s.storeQueue := by unfold State.touch; split <;> rfl
@[simp] theorem State.touch_loadTag (s : State) (ps : List Word) : (s.touch ps).loadTag = s.loadTag := by unfold State.touch; split <;> rfl
@[simp] theorem State.touch_clint (s : State) (ps : List Word) : (s.touch ps).clint = s.clint := by unfold State.touch; split <;> rfl
@[simp] theorem State.touch_done (s : State) (ps : List Word) : (s.touch ps).done = s.done := by unfold State.touch; split <;> rfl
@[simp] theorem State.touch_stopReason (s : State) (ps : List Word) : (s.touch ps).stopReason = s.stopReason := by unfold State.touch; split <;> rfl
@[simp] theorem State.touch_execCount (s : State) (ps : List Word) : (s.touch ps).execCount = s.execCount := by unfold State.touch; split <;> rfl
@[simp] theorem State.touch_counts (s : State) (ps : List Word) : (s.touch ps).counts = s.counts := by unfold State.touch; split <;> rfl
@[simp] theorem State.touch_mem (s : State) (ps : List Word) : (s.touch ps).mem = s.mem := by unfold State.touch; split <;> rfl
@[simp] theorem State.touch_consoleOut (s : State) (ps : List Word) : (s.touch ps).consoleOut = s.consoleOut := by unfold State.touch; split <;> rfl
@[simp] theorem State.touch_ctx (s : State) (ps : List Word) : (s.touch ps).ctx = s.ctx := by unfold State.touch; split <;> rfl
@[simp] theorem State.touch_flushes (s : State) (ps : List Word) : (s.touch ps).flushes = s.flushes := by unfold State.touch; split <;> rfl

/-! ## `countCycle` -/

@[simp] theorem State.countCycle_cfg (s : State) : (s.countCycle).cfg = s.cfg := by unfold State.countCycle; split <;> rfl
@[simp] theorem State.countCycle_x (s : State) : (s.countCycle).x = s.x := by unfold State.countCycle; split <;> rfl
@[simp] theorem State.countCycle_pc (s : State) : (s.countCycle).pc = s.pc := by unfold State.countCycle; split <;> rfl
@[simp] theorem State.countCycle_priv (s : State) : (s.countCycle).priv = s.priv := by unfold State.countCycle; split <;> rfl
@[simp] theorem State.countCycle_debugMode (s : State) : (s.countCycle).debugMode = s.debugMode := by unfold State.countCycle; split <;> rfl
@[simp] theorem State.countCycle_trig (s : State) : (s.countCycle).trig = s.trig := by unfold State.countCycle; split <;> rfl
@[simp] theorem State.countCycle_nmiPending (s : State) : (s.countCycle).nmiPending = s.nmiPending := by unfold State.countCycle; split <;> rfl
@[simp] theorem State.countCycle_nmiCause (s : State) : (s.countCycle).nmiCause = s.nmiCause := by unfold State.countCycle; split <;> rfl
@[simp] theorem State.countCycle_mdseacLocked (s : State) : (s.countCycle).mdseacLocked = s.mdseacLocked := by unfold State.countCycle; split <;> rfl
@[simp] theorem State.countCycle_debugHaltPending (s : State) : (s.countCycle).debugHaltPending = s.debugHaltPending := by unfold State.countCycle; split <;> rfl
@[simp] theorem State.countCycle_stepPending (s : State) : (s.countCycle).stepPending = s.stepPending := by unfold State.countCycle; split <;> rfl
@[simp] theorem State.countCycle_loadQueue (s : State) : (s.countCycle).loadQueue = s.loadQueue := by unfold State.countCycle; split <;> rfl
@[simp] theorem State.countCycle_storeQueue (s : State) : (s.countCycle).storeQueue = s.storeQueue := by unfold State.countCycle; split <;> rfl
@[simp] theorem State.countCycle_loadTag (s : State) : (s.countCycle).loadTag = s.loadTag := by unfold State.countCycle; split <;> rfl
@[simp] theorem State.countCycle_clint (s : State) : (s.countCycle).clint = s.clint := by unfold State.countCycle; split <;> rfl
@[simp] theorem State.countCycle_done (s : State) : (s.countCycle).done = s.done := by unfold State.countCycle; split <;> rfl
@[simp] theorem State.countCycle_stopReason (s : State) : (s.countCycle).stopReason = s.stopReason := by unfold State.countCycle; split <;> rfl
@[simp] theorem State.countCycle_execCount (s : State) : (s.countCycle).execCount = s.execCount := by unfold State.countCycle; split <;> rfl
@[simp] theorem State.countCycle_counts (s : State) : (s.countCycle).counts = s.counts := by unfold State.countCycle; split <;> rfl
@[simp] theorem State.countCycle_mem (s : State) : (s.countCycle).mem = s.mem := by unfold State.countCycle; split <;> rfl
@[simp] theorem State.countCycle_consoleOut (s : State) : (s.countCycle).consoleOut = s.consoleOut := by unfold State.countCycle; split <;> rfl
@[simp] theorem State.countCycle_ctx (s : State) : (s.countCycle).ctx = s.ctx := by unfold State.countCycle; split <;> rfl
@[simp] theorem State.countCycle_tick (s : State) : (s.countCycle).tick = s.tick := by unfold State.countCycle; split <;> rfl
@[simp] theorem State.countCycle_flushes (s : State) : (s.countCycle).flushes = s.flushes := by unfold State.countCycle; split <;> rfl

/-! ## `countInstret` -/

@[simp] theorem State.countInstret_cfg (s : State) : (s.countInstret).cfg = s.cfg := by unfold State.countInstret; split <;> rfl
@[simp] theorem State.countInstret_x (s : State) : (s.countInstret).x = s.x := by unfold State.countInstret; split <;> rfl
@[simp] theorem State.countInstret_pc (s : State) : (s.countInstret).pc = s.pc := by unfold State.countInstret; split <;> rfl
@[simp] theorem State.countInstret_priv (s : State) : (s.countInstret).priv = s.priv := by unfold State.countInstret; split <;> rfl
@[simp] theorem State.countInstret_debugMode (s : State) : (s.countInstret).debugMode = s.debugMode := by unfold State.countInstret; split <;> rfl
@[simp] theorem State.countInstret_trig (s : State) : (s.countInstret).trig = s.trig := by unfold State.countInstret; split <;> rfl
@[simp] theorem State.countInstret_nmiPending (s : State) : (s.countInstret).nmiPending = s.nmiPending := by unfold State.countInstret; split <;> rfl
@[simp] theorem State.countInstret_nmiCause (s : State) : (s.countInstret).nmiCause = s.nmiCause := by unfold State.countInstret; split <;> rfl
@[simp] theorem State.countInstret_mdseacLocked (s : State) : (s.countInstret).mdseacLocked = s.mdseacLocked := by unfold State.countInstret; split <;> rfl
@[simp] theorem State.countInstret_debugHaltPending (s : State) : (s.countInstret).debugHaltPending = s.debugHaltPending := by unfold State.countInstret; split <;> rfl
@[simp] theorem State.countInstret_stepPending (s : State) : (s.countInstret).stepPending = s.stepPending := by unfold State.countInstret; split <;> rfl
@[simp] theorem State.countInstret_loadQueue (s : State) : (s.countInstret).loadQueue = s.loadQueue := by unfold State.countInstret; split <;> rfl
@[simp] theorem State.countInstret_storeQueue (s : State) : (s.countInstret).storeQueue = s.storeQueue := by unfold State.countInstret; split <;> rfl
@[simp] theorem State.countInstret_loadTag (s : State) : (s.countInstret).loadTag = s.loadTag := by unfold State.countInstret; split <;> rfl
@[simp] theorem State.countInstret_clint (s : State) : (s.countInstret).clint = s.clint := by unfold State.countInstret; split <;> rfl
@[simp] theorem State.countInstret_done (s : State) : (s.countInstret).done = s.done := by unfold State.countInstret; split <;> rfl
@[simp] theorem State.countInstret_stopReason (s : State) : (s.countInstret).stopReason = s.stopReason := by unfold State.countInstret; split <;> rfl
@[simp] theorem State.countInstret_execCount (s : State) : (s.countInstret).execCount = s.execCount := by unfold State.countInstret; split <;> rfl
@[simp] theorem State.countInstret_counts (s : State) : (s.countInstret).counts = s.counts := by unfold State.countInstret; split <;> rfl
@[simp] theorem State.countInstret_mem (s : State) : (s.countInstret).mem = s.mem := by unfold State.countInstret; split <;> rfl
@[simp] theorem State.countInstret_consoleOut (s : State) : (s.countInstret).consoleOut = s.consoleOut := by unfold State.countInstret; split <;> rfl
@[simp] theorem State.countInstret_ctx (s : State) : (s.countInstret).ctx = s.ctx := by unfold State.countInstret; split <;> rfl
@[simp] theorem State.countInstret_tick (s : State) : (s.countInstret).tick = s.tick := by unfold State.countInstret; split <;> rfl
@[simp] theorem State.countInstret_flushes (s : State) : (s.countInstret).flushes = s.flushes := by unfold State.countInstret; split <;> rfl

/-! ## `countHpm` -/

@[simp] theorem State.countHpm_cfg (s : State) : (s.countHpm).cfg = s.cfg := by unfold State.countHpm; split <;> rfl
@[simp] theorem State.countHpm_x (s : State) : (s.countHpm).x = s.x := by unfold State.countHpm; split <;> rfl
@[simp] theorem State.countHpm_pc (s : State) : (s.countHpm).pc = s.pc := by unfold State.countHpm; split <;> rfl
@[simp] theorem State.countHpm_priv (s : State) : (s.countHpm).priv = s.priv := by unfold State.countHpm; split <;> rfl
@[simp] theorem State.countHpm_debugMode (s : State) : (s.countHpm).debugMode = s.debugMode := by unfold State.countHpm; split <;> rfl
@[simp] theorem State.countHpm_trig (s : State) : (s.countHpm).trig = s.trig := by unfold State.countHpm; split <;> rfl
@[simp] theorem State.countHpm_nmiPending (s : State) : (s.countHpm).nmiPending = s.nmiPending := by unfold State.countHpm; split <;> rfl
@[simp] theorem State.countHpm_nmiCause (s : State) : (s.countHpm).nmiCause = s.nmiCause := by unfold State.countHpm; split <;> rfl
@[simp] theorem State.countHpm_mdseacLocked (s : State) : (s.countHpm).mdseacLocked = s.mdseacLocked := by unfold State.countHpm; split <;> rfl
@[simp] theorem State.countHpm_debugHaltPending (s : State) : (s.countHpm).debugHaltPending = s.debugHaltPending := by unfold State.countHpm; split <;> rfl
@[simp] theorem State.countHpm_stepPending (s : State) : (s.countHpm).stepPending = s.stepPending := by unfold State.countHpm; split <;> rfl
@[simp] theorem State.countHpm_loadQueue (s : State) : (s.countHpm).loadQueue = s.loadQueue := by unfold State.countHpm; split <;> rfl
@[simp] theorem State.countHpm_storeQueue (s : State) : (s.countHpm).storeQueue = s.storeQueue := by unfold State.countHpm; split <;> rfl
@[simp] theorem State.countHpm_loadTag (s : State) : (s.countHpm).loadTag = s.loadTag := by unfold State.countHpm; split <;> rfl
@[simp] theorem State.countHpm_clint (s : State) : (s.countHpm).clint = s.clint := by unfold State.countHpm; split <;> rfl
@[simp] theorem State.countHpm_done (s : State) : (s.countHpm).done = s.done := by unfold State.countHpm; split <;> rfl
@[simp] theorem State.countHpm_stopReason (s : State) : (s.countHpm).stopReason = s.stopReason := by unfold State.countHpm; split <;> rfl
@[simp] theorem State.countHpm_execCount (s : State) : (s.countHpm).execCount = s.execCount := by unfold State.countHpm; split <;> rfl
@[simp] theorem State.countHpm_counts (s : State) : (s.countHpm).counts = s.counts := by unfold State.countHpm; split <;> rfl
@[simp] theorem State.countHpm_mem (s : State) : (s.countHpm).mem = s.mem := by unfold State.countHpm; split <;> rfl
@[simp] theorem State.countHpm_consoleOut (s : State) : (s.countHpm).consoleOut = s.consoleOut := by unfold State.countHpm; split <;> rfl
@[simp] theorem State.countHpm_ctx (s : State) : (s.countHpm).ctx = s.ctx := by unfold State.countHpm; split <;> rfl
@[simp] theorem State.countHpm_tick (s : State) : (s.countHpm).tick = s.tick := by unfold State.countHpm; split <;> rfl
@[simp] theorem State.countHpm_flushes (s : State) : (s.countHpm).flushes = s.flushes := by unfold State.countHpm; split <;> rfl

/-! ## `setPhysByte` -/

@[simp] theorem State.setPhysByte_cfg (s : State) (b : Word) (v : Byte) :
    (s.setPhysByte b v).cfg = s.cfg := by unfold State.setPhysByte; split <;> [rfl; (split <;> rfl)]
@[simp] theorem State.setPhysByte_x (s : State) (b : Word) (v : Byte) :
    (s.setPhysByte b v).x = s.x := by unfold State.setPhysByte; split <;> [rfl; (split <;> rfl)]
@[simp] theorem State.setPhysByte_pc (s : State) (b : Word) (v : Byte) :
    (s.setPhysByte b v).pc = s.pc := by unfold State.setPhysByte; split <;> [rfl; (split <;> rfl)]
@[simp] theorem State.setPhysByte_priv (s : State) (b : Word) (v : Byte) :
    (s.setPhysByte b v).priv = s.priv := by unfold State.setPhysByte; split <;> [rfl; (split <;> rfl)]
@[simp] theorem State.setPhysByte_debugMode (s : State) (b : Word) (v : Byte) :
    (s.setPhysByte b v).debugMode = s.debugMode := by unfold State.setPhysByte; split <;> [rfl; (split <;> rfl)]
@[simp] theorem State.setPhysByte_csr (s : State) (b : Word) (v : Byte) :
    (s.setPhysByte b v).csr = s.csr := by unfold State.setPhysByte; split <;> [rfl; (split <;> rfl)]
@[simp] theorem State.setPhysByte_trig (s : State) (b : Word) (v : Byte) :
    (s.setPhysByte b v).trig = s.trig := by unfold State.setPhysByte; split <;> [rfl; (split <;> rfl)]
@[simp] theorem State.setPhysByte_nmiPending (s : State) (b : Word) (v : Byte) :
    (s.setPhysByte b v).nmiPending = s.nmiPending := by unfold State.setPhysByte; split <;> [rfl; (split <;> rfl)]
@[simp] theorem State.setPhysByte_nmiCause (s : State) (b : Word) (v : Byte) :
    (s.setPhysByte b v).nmiCause = s.nmiCause := by unfold State.setPhysByte; split <;> [rfl; (split <;> rfl)]
@[simp] theorem State.setPhysByte_mdseacLocked (s : State) (b : Word) (v : Byte) :
    (s.setPhysByte b v).mdseacLocked = s.mdseacLocked := by unfold State.setPhysByte; split <;> [rfl; (split <;> rfl)]
@[simp] theorem State.setPhysByte_debugHaltPending (s : State) (b : Word) (v : Byte) :
    (s.setPhysByte b v).debugHaltPending = s.debugHaltPending := by unfold State.setPhysByte; split <;> [rfl; (split <;> rfl)]
@[simp] theorem State.setPhysByte_stepPending (s : State) (b : Word) (v : Byte) :
    (s.setPhysByte b v).stepPending = s.stepPending := by unfold State.setPhysByte; split <;> [rfl; (split <;> rfl)]
@[simp] theorem State.setPhysByte_loadQueue (s : State) (b : Word) (v : Byte) :
    (s.setPhysByte b v).loadQueue = s.loadQueue := by unfold State.setPhysByte; split <;> [rfl; (split <;> rfl)]
@[simp] theorem State.setPhysByte_storeQueue (s : State) (b : Word) (v : Byte) :
    (s.setPhysByte b v).storeQueue = s.storeQueue := by unfold State.setPhysByte; split <;> [rfl; (split <;> rfl)]
@[simp] theorem State.setPhysByte_loadTag (s : State) (b : Word) (v : Byte) :
    (s.setPhysByte b v).loadTag = s.loadTag := by unfold State.setPhysByte; split <;> [rfl; (split <;> rfl)]
@[simp] theorem State.setPhysByte_done (s : State) (b : Word) (v : Byte) :
    (s.setPhysByte b v).done = s.done := by unfold State.setPhysByte; split <;> [rfl; (split <;> rfl)]
@[simp] theorem State.setPhysByte_stopReason (s : State) (b : Word) (v : Byte) :
    (s.setPhysByte b v).stopReason = s.stopReason := by unfold State.setPhysByte; split <;> [rfl; (split <;> rfl)]
@[simp] theorem State.setPhysByte_execCount (s : State) (b : Word) (v : Byte) :
    (s.setPhysByte b v).execCount = s.execCount := by unfold State.setPhysByte; split <;> [rfl; (split <;> rfl)]
@[simp] theorem State.setPhysByte_counts (s : State) (b : Word) (v : Byte) :
    (s.setPhysByte b v).counts = s.counts := by unfold State.setPhysByte; split <;> [rfl; (split <;> rfl)]
@[simp] theorem State.setPhysByte_consoleOut (s : State) (b : Word) (v : Byte) :
    (s.setPhysByte b v).consoleOut = s.consoleOut := by unfold State.setPhysByte; split <;> [rfl; (split <;> rfl)]
@[simp] theorem State.setPhysByte_ctx (s : State) (b : Word) (v : Byte) :
    (s.setPhysByte b v).ctx = s.ctx := by unfold State.setPhysByte; split <;> [rfl; (split <;> rfl)]
@[simp] theorem State.setPhysByte_tick (s : State) (b : Word) (v : Byte) :
    (s.setPhysByte b v).tick = s.tick := by unfold State.setPhysByte; split <;> [rfl; (split <;> rfl)]
@[simp] theorem State.setPhysByte_flushes (s : State) (b : Word) (v : Byte) :
    (s.setPhysByte b v).flushes = s.flushes := by unfold State.setPhysByte; split <;> [rfl; (split <;> rfl)]

/-! ## `setPhysBytes` -/

@[simp] theorem State.setPhysBytes_cfg (s : State) (ps : List Word) (bs : List Byte) :
    (s.setPhysBytes ps bs).cfg = s.cfg := by
  induction ps generalizing s bs with
  | nil => rfl
  | cons p ps ih =>
    cases bs with
    | nil => rfl
    | cons b bs => exact (ih (s.setPhysByte p b) bs).trans (State.setPhysByte_cfg s p b)
@[simp] theorem State.setPhysBytes_x (s : State) (ps : List Word) (bs : List Byte) :
    (s.setPhysBytes ps bs).x = s.x := by
  induction ps generalizing s bs with
  | nil => rfl
  | cons p ps ih =>
    cases bs with
    | nil => rfl
    | cons b bs => exact (ih (s.setPhysByte p b) bs).trans (State.setPhysByte_x s p b)
@[simp] theorem State.setPhysBytes_pc (s : State) (ps : List Word) (bs : List Byte) :
    (s.setPhysBytes ps bs).pc = s.pc := by
  induction ps generalizing s bs with
  | nil => rfl
  | cons p ps ih =>
    cases bs with
    | nil => rfl
    | cons b bs => exact (ih (s.setPhysByte p b) bs).trans (State.setPhysByte_pc s p b)
@[simp] theorem State.setPhysBytes_priv (s : State) (ps : List Word) (bs : List Byte) :
    (s.setPhysBytes ps bs).priv = s.priv := by
  induction ps generalizing s bs with
  | nil => rfl
  | cons p ps ih =>
    cases bs with
    | nil => rfl
    | cons b bs => exact (ih (s.setPhysByte p b) bs).trans (State.setPhysByte_priv s p b)
@[simp] theorem State.setPhysBytes_debugMode (s : State) (ps : List Word) (bs : List Byte) :
    (s.setPhysBytes ps bs).debugMode = s.debugMode := by
  induction ps generalizing s bs with
  | nil => rfl
  | cons p ps ih =>
    cases bs with
    | nil => rfl
    | cons b bs => exact (ih (s.setPhysByte p b) bs).trans (State.setPhysByte_debugMode s p b)
@[simp] theorem State.setPhysBytes_csr (s : State) (ps : List Word) (bs : List Byte) :
    (s.setPhysBytes ps bs).csr = s.csr := by
  induction ps generalizing s bs with
  | nil => rfl
  | cons p ps ih =>
    cases bs with
    | nil => rfl
    | cons b bs => exact (ih (s.setPhysByte p b) bs).trans (State.setPhysByte_csr s p b)
@[simp] theorem State.setPhysBytes_trig (s : State) (ps : List Word) (bs : List Byte) :
    (s.setPhysBytes ps bs).trig = s.trig := by
  induction ps generalizing s bs with
  | nil => rfl
  | cons p ps ih =>
    cases bs with
    | nil => rfl
    | cons b bs => exact (ih (s.setPhysByte p b) bs).trans (State.setPhysByte_trig s p b)
@[simp] theorem State.setPhysBytes_nmiPending (s : State) (ps : List Word) (bs : List Byte) :
    (s.setPhysBytes ps bs).nmiPending = s.nmiPending := by
  induction ps generalizing s bs with
  | nil => rfl
  | cons p ps ih =>
    cases bs with
    | nil => rfl
    | cons b bs => exact (ih (s.setPhysByte p b) bs).trans (State.setPhysByte_nmiPending s p b)
@[simp] theorem State.setPhysBytes_nmiCause (s : State) (ps : List Word) (bs : List Byte) :
    (s.setPhysBytes ps bs).nmiCause = s.nmiCause := by
  induction ps generalizing s bs with
  | nil => rfl
  | cons p ps ih =>
    cases bs with
    | nil => rfl
    | cons b bs => exact (ih (s.setPhysByte p b) bs).trans (State.setPhysByte_nmiCause s p b)
@[simp] theorem State.setPhysBytes_mdseacLocked (s : State) (ps : List Word) (bs : List Byte) :
    (s.setPhysBytes ps bs).mdseacLocked = s.mdseacLocked := by
  induction ps generalizing s bs with
  | nil => rfl
  | cons p ps ih =>
    cases bs with
    | nil => rfl
    | cons b bs => exact (ih (s.setPhysByte p b) bs).trans (State.setPhysByte_mdseacLocked s p b)
@[simp] theorem State.setPhysBytes_debugHaltPending (s : State) (ps : List Word) (bs : List Byte) :
    (s.setPhysBytes ps bs).debugHaltPending = s.debugHaltPending := by
  induction ps generalizing s bs with
  | nil => rfl
  | cons p ps ih =>
    cases bs with
    | nil => rfl
    | cons b bs => exact (ih (s.setPhysByte p b) bs).trans (State.setPhysByte_debugHaltPending s p b)
@[simp] theorem State.setPhysBytes_stepPending (s : State) (ps : List Word) (bs : List Byte) :
    (s.setPhysBytes ps bs).stepPending = s.stepPending := by
  induction ps generalizing s bs with
  | nil => rfl
  | cons p ps ih =>
    cases bs with
    | nil => rfl
    | cons b bs => exact (ih (s.setPhysByte p b) bs).trans (State.setPhysByte_stepPending s p b)
@[simp] theorem State.setPhysBytes_loadQueue (s : State) (ps : List Word) (bs : List Byte) :
    (s.setPhysBytes ps bs).loadQueue = s.loadQueue := by
  induction ps generalizing s bs with
  | nil => rfl
  | cons p ps ih =>
    cases bs with
    | nil => rfl
    | cons b bs => exact (ih (s.setPhysByte p b) bs).trans (State.setPhysByte_loadQueue s p b)
@[simp] theorem State.setPhysBytes_storeQueue (s : State) (ps : List Word) (bs : List Byte) :
    (s.setPhysBytes ps bs).storeQueue = s.storeQueue := by
  induction ps generalizing s bs with
  | nil => rfl
  | cons p ps ih =>
    cases bs with
    | nil => rfl
    | cons b bs => exact (ih (s.setPhysByte p b) bs).trans (State.setPhysByte_storeQueue s p b)
@[simp] theorem State.setPhysBytes_loadTag (s : State) (ps : List Word) (bs : List Byte) :
    (s.setPhysBytes ps bs).loadTag = s.loadTag := by
  induction ps generalizing s bs with
  | nil => rfl
  | cons p ps ih =>
    cases bs with
    | nil => rfl
    | cons b bs => exact (ih (s.setPhysByte p b) bs).trans (State.setPhysByte_loadTag s p b)
@[simp] theorem State.setPhysBytes_done (s : State) (ps : List Word) (bs : List Byte) :
    (s.setPhysBytes ps bs).done = s.done := by
  induction ps generalizing s bs with
  | nil => rfl
  | cons p ps ih =>
    cases bs with
    | nil => rfl
    | cons b bs => exact (ih (s.setPhysByte p b) bs).trans (State.setPhysByte_done s p b)
@[simp] theorem State.setPhysBytes_stopReason (s : State) (ps : List Word) (bs : List Byte) :
    (s.setPhysBytes ps bs).stopReason = s.stopReason := by
  induction ps generalizing s bs with
  | nil => rfl
  | cons p ps ih =>
    cases bs with
    | nil => rfl
    | cons b bs => exact (ih (s.setPhysByte p b) bs).trans (State.setPhysByte_stopReason s p b)
@[simp] theorem State.setPhysBytes_execCount (s : State) (ps : List Word) (bs : List Byte) :
    (s.setPhysBytes ps bs).execCount = s.execCount := by
  induction ps generalizing s bs with
  | nil => rfl
  | cons p ps ih =>
    cases bs with
    | nil => rfl
    | cons b bs => exact (ih (s.setPhysByte p b) bs).trans (State.setPhysByte_execCount s p b)
@[simp] theorem State.setPhysBytes_counts (s : State) (ps : List Word) (bs : List Byte) :
    (s.setPhysBytes ps bs).counts = s.counts := by
  induction ps generalizing s bs with
  | nil => rfl
  | cons p ps ih =>
    cases bs with
    | nil => rfl
    | cons b bs => exact (ih (s.setPhysByte p b) bs).trans (State.setPhysByte_counts s p b)
@[simp] theorem State.setPhysBytes_consoleOut (s : State) (ps : List Word) (bs : List Byte) :
    (s.setPhysBytes ps bs).consoleOut = s.consoleOut := by
  induction ps generalizing s bs with
  | nil => rfl
  | cons p ps ih =>
    cases bs with
    | nil => rfl
    | cons b bs => exact (ih (s.setPhysByte p b) bs).trans (State.setPhysByte_consoleOut s p b)
@[simp] theorem State.setPhysBytes_ctx (s : State) (ps : List Word) (bs : List Byte) :
    (s.setPhysBytes ps bs).ctx = s.ctx := by
  induction ps generalizing s bs with
  | nil => rfl
  | cons p ps ih =>
    cases bs with
    | nil => rfl
    | cons b bs => exact (ih (s.setPhysByte p b) bs).trans (State.setPhysByte_ctx s p b)
@[simp] theorem State.setPhysBytes_tick (s : State) (ps : List Word) (bs : List Byte) :
    (s.setPhysBytes ps bs).tick = s.tick := by
  induction ps generalizing s bs with
  | nil => rfl
  | cons p ps ih =>
    cases bs with
    | nil => rfl
    | cons b bs => exact (ih (s.setPhysByte p b) bs).trans (State.setPhysByte_tick s p b)
@[simp] theorem State.setPhysBytes_flushes (s : State) (ps : List Word) (bs : List Byte) :
    (s.setPhysBytes ps bs).flushes = s.flushes := by
  induction ps generalizing s bs with
  | nil => rfl
  | cons p ps ih =>
    cases bs with
    | nil => rfl
    | cons b bs => exact (ih (s.setPhysByte p b) bs).trans (State.setPhysByte_flushes s p b)

/-! ## `triggerEval` -/

@[simp] theorem State.triggerEval_cfg (s : State) (k : TrigKind) (v : Word) (tm : Timing) (w : Word) :
    (s.triggerEval k v tm w).2.cfg = s.cfg := by unfold State.triggerEval; dsimp only; split <;> rfl
@[simp] theorem State.triggerEval_x (s : State) (k : TrigKind) (v : Word) (tm : Timing) (w : Word) :
    (s.triggerEval k v tm w).2.x = s.x := by unfold State.triggerEval; dsimp only; split <;> rfl
@[simp] theorem State.triggerEval_pc (s : State) (k : TrigKind) (v : Word) (tm : Timing) (w : Word) :
    (s.triggerEval k v tm w).2.pc = s.pc := by unfold State.triggerEval; dsimp only; split <;> rfl
@[simp] theorem State.triggerEval_priv (s : State) (k : TrigKind) (v : Word) (tm : Timing) (w : Word) :
    (s.triggerEval k v tm w).2.priv = s.priv := by unfold State.triggerEval; dsimp only; split <;> rfl
@[simp] theorem State.triggerEval_debugMode (s : State) (k : TrigKind) (v : Word) (tm : Timing) (w : Word) :
    (s.triggerEval k v tm w).2.debugMode = s.debugMode := by unfold State.triggerEval; dsimp only; split <;> rfl
@[simp] theorem State.triggerEval_csr (s : State) (k : TrigKind) (v : Word) (tm : Timing) (w : Word) :
    (s.triggerEval k v tm w).2.csr = s.csr := by unfold State.triggerEval; dsimp only; split <;> rfl
@[simp] theorem State.triggerEval_nmiPending (s : State) (k : TrigKind) (v : Word) (tm : Timing) (w : Word) :
    (s.triggerEval k v tm w).2.nmiPending = s.nmiPending := by unfold State.triggerEval; dsimp only; split <;> rfl
@[simp] theorem State.triggerEval_nmiCause (s : State) (k : TrigKind) (v : Word) (tm : Timing) (w : Word) :
    (s.triggerEval k v tm w).2.nmiCause = s.nmiCause := by unfold State.triggerEval; dsimp only; split <;> rfl
@[simp] theorem State.triggerEval_mdseacLocked (s : State) (k : TrigKind) (v : Word) (tm : Timing) (w : Word) :
    (s.triggerEval k v tm w).2.mdseacLocked = s.mdseacLocked := by unfold State.triggerEval; dsimp only; split <;> rfl
@[simp] theorem State.triggerEval_debugHaltPending (s : State) (k : TrigKind) (v : Word) (tm : Timing) (w : Word) :
    (s.triggerEval k v tm w).2.debugHaltPending = s.debugHaltPending := by unfold State.triggerEval; dsimp only; split <;> rfl
@[simp] theorem State.triggerEval_stepPending (s : State) (k : TrigKind) (v : Word) (tm : Timing) (w : Word) :
    (s.triggerEval k v tm w).2.stepPending = s.stepPending := by unfold State.triggerEval; dsimp only; split <;> rfl
@[simp] theorem State.triggerEval_loadQueue (s : State) (k : TrigKind) (v : Word) (tm : Timing) (w : Word) :
    (s.triggerEval k v tm w).2.loadQueue = s.loadQueue := by unfold State.triggerEval; dsimp only; split <;> rfl
@[simp] theorem State.triggerEval_storeQueue (s : State) (k : TrigKind) (v : Word) (tm : Timing) (w : Word) :
    (s.triggerEval k v tm w).2.storeQueue = s.storeQueue := by unfold State.triggerEval; dsimp only; split <;> rfl
@[simp] theorem State.triggerEval_loadTag (s : State) (k : TrigKind) (v : Word) (tm : Timing) (w : Word) :
    (s.triggerEval k v tm w).2.loadTag = s.loadTag := by unfold State.triggerEval; dsimp only; split <;> rfl
@[simp] theorem State.triggerEval_clint (s : State) (k : TrigKind) (v : Word) (tm : Timing) (w : Word) :
    (s.triggerEval k v tm w).2.clint = s.clint := by unfold State.triggerEval; dsimp only; split <;> rfl
@[simp] theorem State.triggerEval_done (s : State) (k : TrigKind) (v : Word) (tm : Timing) (w : Word) :
    (s.triggerEval k v tm w).2.done = s.done := by unfold State.triggerEval; dsimp only; split <;> rfl
@[simp] theorem State.triggerEval_stopReason (s : State) (k : TrigKind) (v : Word) (tm : Timing) (w : Word) :
    (s.triggerEval k v tm w).2.stopReason = s.stopReason := by unfold State.triggerEval; dsimp only; split <;> rfl
@[simp] theorem State.triggerEval_execCount (s : State) (k : TrigKind) (v : Word) (tm : Timing) (w : Word) :
    (s.triggerEval k v tm w).2.execCount = s.execCount := by unfold State.triggerEval; dsimp only; split <;> rfl
@[simp] theorem State.triggerEval_counts (s : State) (k : TrigKind) (v : Word) (tm : Timing) (w : Word) :
    (s.triggerEval k v tm w).2.counts = s.counts := by unfold State.triggerEval; dsimp only; split <;> rfl
@[simp] theorem State.triggerEval_mem (s : State) (k : TrigKind) (v : Word) (tm : Timing) (w : Word) :
    (s.triggerEval k v tm w).2.mem = s.mem := by unfold State.triggerEval; dsimp only; split <;> rfl
@[simp] theorem State.triggerEval_consoleOut (s : State) (k : TrigKind) (v : Word) (tm : Timing) (w : Word) :
    (s.triggerEval k v tm w).2.consoleOut = s.consoleOut := by unfold State.triggerEval; dsimp only; split <;> rfl
@[simp] theorem State.triggerEval_ctx (s : State) (k : TrigKind) (v : Word) (tm : Timing) (w : Word) :
    (s.triggerEval k v tm w).2.ctx = s.ctx := by unfold State.triggerEval; dsimp only; split <;> rfl
@[simp] theorem State.triggerEval_tick (s : State) (k : TrigKind) (v : Word) (tm : Timing) (w : Word) :
    (s.triggerEval k v tm w).2.tick = s.tick := by unfold State.triggerEval; dsimp only; split <;> rfl
@[simp] theorem State.triggerEval_flushes (s : State) (k : TrigKind) (v : Word) (tm : Timing) (w : Word) :
    (s.triggerEval k v tm w).2.flushes = s.flushes := by unfold State.triggerEval; dsimp only; split <;> rfl

/-! ## `csrStore` -/

@[simp] theorem State.csrStore_cfg (s : State) (h : Bool) (r : Csr) (v : Word) :
    (s.csrStore h r v).cfg = s.cfg := by
  cases r <;> simp only [State.csrStore, State.writeTdata1, State.writeTdata2, State.updateSlot] <;> (try split) <;> rfl
@[simp] theorem State.csrStore_x (s : State) (h : Bool) (r : Csr) (v : Word) :
    (s.csrStore h r v).x = s.x := by
  cases r <;> simp only [State.csrStore, State.writeTdata1, State.writeTdata2, State.updateSlot] <;> (try split) <;> rfl
@[simp] theorem State.csrStore_pc (s : State) (h : Bool) (r : Csr) (v : Word) :
    (s.csrStore h r v).pc = s.pc := by
  cases r <;> simp only [State.csrStore, State.writeTdata1, State.writeTdata2, State.updateSlot] <;> (try split) <;> rfl
@[simp] theorem State.csrStore_priv (s : State) (h : Bool) (r : Csr) (v : Word) :
    (s.csrStore h r v).priv = s.priv := by
  cases r <;> simp only [State.csrStore, State.writeTdata1, State.writeTdata2, State.updateSlot] <;> (try split) <;> rfl
@[simp] theorem State.csrStore_debugMode (s : State) (h : Bool) (r : Csr) (v : Word) :
    (s.csrStore h r v).debugMode = s.debugMode := by
  cases r <;> simp only [State.csrStore, State.writeTdata1, State.writeTdata2, State.updateSlot] <;> (try split) <;> rfl
@[simp] theorem State.csrStore_nmiPending (s : State) (h : Bool) (r : Csr) (v : Word) :
    (s.csrStore h r v).nmiPending = s.nmiPending := by
  cases r <;> simp only [State.csrStore, State.writeTdata1, State.writeTdata2, State.updateSlot] <;> (try split) <;> rfl
@[simp] theorem State.csrStore_nmiCause (s : State) (h : Bool) (r : Csr) (v : Word) :
    (s.csrStore h r v).nmiCause = s.nmiCause := by
  cases r <;> simp only [State.csrStore, State.writeTdata1, State.writeTdata2, State.updateSlot] <;> (try split) <;> rfl
@[simp] theorem State.csrStore_debugHaltPending (s : State) (h : Bool) (r : Csr) (v : Word) :
    (s.csrStore h r v).debugHaltPending = s.debugHaltPending := by
  cases r <;> simp only [State.csrStore, State.writeTdata1, State.writeTdata2, State.updateSlot] <;> (try split) <;> rfl
@[simp] theorem State.csrStore_stepPending (s : State) (h : Bool) (r : Csr) (v : Word) :
    (s.csrStore h r v).stepPending = s.stepPending := by
  cases r <;> simp only [State.csrStore, State.writeTdata1, State.writeTdata2, State.updateSlot] <;> (try split) <;> rfl
@[simp] theorem State.csrStore_loadQueue (s : State) (h : Bool) (r : Csr) (v : Word) :
    (s.csrStore h r v).loadQueue = s.loadQueue := by
  cases r <;> simp only [State.csrStore, State.writeTdata1, State.writeTdata2, State.updateSlot] <;> (try split) <;> rfl
@[simp] theorem State.csrStore_storeQueue (s : State) (h : Bool) (r : Csr) (v : Word) :
    (s.csrStore h r v).storeQueue = s.storeQueue := by
  cases r <;> simp only [State.csrStore, State.writeTdata1, State.writeTdata2, State.updateSlot] <;> (try split) <;> rfl
@[simp] theorem State.csrStore_loadTag (s : State) (h : Bool) (r : Csr) (v : Word) :
    (s.csrStore h r v).loadTag = s.loadTag := by
  cases r <;> simp only [State.csrStore, State.writeTdata1, State.writeTdata2, State.updateSlot] <;> (try split) <;> rfl
@[simp] theorem State.csrStore_clint (s : State) (h : Bool) (r : Csr) (v : Word) :
    (s.csrStore h r v).clint = s.clint := by
  cases r <;> simp only [State.csrStore, State.writeTdata1, State.writeTdata2, State.updateSlot] <;> (try split) <;> rfl
@[simp] theorem State.csrStore_done (s : State) (h : Bool) (r : Csr) (v : Word) :
    (s.csrStore h r v).done = s.done := by
  cases r <;> simp only [State.csrStore, State.writeTdata1, State.writeTdata2, State.updateSlot] <;> (try split) <;> rfl
@[simp] theorem State.csrStore_stopReason (s : State) (h : Bool) (r : Csr) (v : Word) :
    (s.csrStore h r v).stopReason = s.stopReason := by
  cases r <;> simp only [State.csrStore, State.writeTdata1, State.writeTdata2, State.updateSlot] <;> (try split) <;> rfl
@[simp] theorem State.csrStore_execCount (s : State) (h : Bool) (r : Csr) (v : Word) :
    (s.csrStore h r v).execCount = s.execCount := by
  cases r <;> simp only [State.csrStore, State.writeTdata1, State.writeTdata2, State.updateSlot] <;> (try split) <;> rfl
@[simp] theorem State.csrStore_counts (s : State) (h : Bool) (r : Csr) (v : Word) :
    (s.csrStore h r v).counts = s.counts := by
  cases r <;> simp only [State.csrStore, State.writeTdata1, State.writeTdata2, State.updateSlot] <;> (try split) <;> rfl
@[simp] theorem State.csrStore_mem (s : State) (h : Bool) (r : Csr) (v : Word) :
    (s.csrStore h r v).mem = s.mem := by
  cases r <;> simp only [State.csrStore, State.writeTdata1, State.writeTdata2, State.updateSlot] <;> (try split) <;> rfl
@[simp] theorem State.csrStore_consoleOut (s : State) (h : Bool) (r : Csr) (v : Word) :
    (s.csrStore h r v).consoleOut = s.consoleOut := by
  cases r <;> simp only [State.csrStore, State.writeTdata1, State.writeTdata2, State.updateSlot] <;> (try split) <;> rfl
@[simp] theorem State.csrStore_ctx (s : State) (h : Bool) (r : Csr) (v : Word) :
    (s.csrStore h r v).ctx = s.ctx := by
  cases r <;> simp only [State.csrStore, State.writeTdata1, State.writeTdata2, State.updateSlot] <;> (try split) <;> rfl
@[simp] theorem State.csrStore_tick (s : State) (h : Bool) (r : Csr) (v : Word) :
    (s.csrStore h r v).tick = s.tick := by
  cases r <;> simp only [State.csrStore, State.writeTdata1, State.writeTdata2, State.updateSlot] <;> (try split) <;> rfl
@[simp] theorem State.csrStore_flushes (s : State) (h : Bool) (r : Csr) (v : Word) :
    (s.csrStore h r v).flushes = s.flushes := by
  cases r <;> simp only [State.csrStore, State.writeTdata1, State.writeTdata2, State.updateSlot] <;> (try split) <;> rfl

/-! ## `csrWrite` -/

@[simp] theorem State.csrWrite_cfg (s : State) (r : Csr) (v : Word) :
    (s.csrWrite r v).cfg = s.cfg := by
  unfold State.csrWrite; exact State.csrStore_cfg s false r v
@[simp] theorem State.csrWrite_x (s : State) (r : Csr) (v : Word) :
    (s.csrWrite r v).x = s.x := by
  unfold State.csrWrite; exact State.csrStore_x s false r v
@[simp] theorem State.csrWrite_pc (s : State) (r : Csr) (v : Word) :
    (s.csrWrite r v).pc = s.pc := by
  unfold State.csrWrite; exact State.csrStore_pc s false r v
@[simp] theorem State.csrWrite_priv (s : State) (r : Csr) (v : Word) :
    (s.csrWrite r v).priv = s.priv := by
  unfold State.csrWrite; exact State.csrStore_priv s false r v
@[simp] theorem State.csrWrite_debugMode (s : State) (r : Csr) (v : Word) :
    (s.csrWrite r v).debugMode = s.debugMode := by
  unfold State.csrWrite; exact State.csrStore_debugMode s false r v
@[simp] theorem State.csrWrite_nmiPending (s : State) (r : Csr) (v : Word) :
    (s.csrWrite r v).nmiPending = s.nmiPending := by
  unfold State.csrWrite; exact State.csrStore_nmiPending s false r v
@[simp] theorem State.csrWrite_nmiCause (s : State) (r : Csr) (v : Word) :
    (s.csrWrite r v).nmiCause = s.nmiCause := by
  unfold State.csrWrite; exact State.csrStore_nmiCause s false r v
@[simp] theorem State.csrWrite_debugHaltPending (s : State) (r : Csr) (v : Word) :
    (s.csrWrite r v).debugHaltPending = s.debugHaltPending := by
  unfold State.csrWrite; exact State.csrStore_debugHaltPending s false r v
@[simp] theorem State.csrWrite_stepPending (s : State) (r : Csr) (v : Word) :
    (s.csrWrite r v).stepPending = s.stepPending := by
  unfold State.csrWrite; exact State.csrStore_stepPending s false r v
@[simp] theorem State.csrWrite_loadQueue (s : State) (r : Csr) (v : Word) :
    (s.csrWrite r v).loadQueue = s.loadQueue := by
  unfold State.csrWrite; exact State.csrStore_loadQueue s false r v
@[simp] theorem State.csrWrite_storeQueue (s : State) (r : Csr) (v : Word) :
    (s.csrWrite r v).storeQueue = s.storeQueue := by
  unfold State.csrWrite; exact State.csrStore_storeQueue s false r v
@[simp] theorem State.csrWrite_loadTag (s : State) (r : Csr) (v : Word) :
    (s.csrWrite r v).loadTag = s.loadTag := by
  unfold State.csrWrite; exact State.csrStore_loadTag s false r v
@[simp] theorem State.csrWrite_clint (s : State) (r : Csr) (v : Word) :
    (s.csrWrite r v).clint = s.clint := by
  unfold State.csrWrite; exact State.csrStore_clint s false r v
@[simp] theorem State.csrWrite_done (s : State) (r : Csr) (v : Word) :
    (s.csrWrite r v).done = s.done := by
  unfold State.csrWrite; exact State.csrStore_done s false r v
@[simp] theorem State.csrWrite_stopReason (s : State) (r : Csr) (v : Word) :
    (s.csrWrite r v).stopReason = s.stopReason := by
  unfold State.csrWrite; exact State.csrStore_stopReason s false r v
@[simp] theorem State.csrWrite_execCount (s : State) (r : Csr) (v : Word) :
    (s.csrWrite r v).execCount = s.execCount := by
  unfold State.csrWrite; exact State.csrStore_execCount s false r v
@[simp] theorem State.csrWrite_counts (s : State) (r : Csr) (v : Word) :
    (s.csrWrite r v).counts = s.counts := by
  unfold State.csrWrite; exact State.csrStore_counts s false r v
@[simp] theorem State.csrWrite_mem (s : State) (r : Csr) (v : Word) :
    (s.csrWrite r v).mem = s.mem := by
  unfold State.csrWrite; exact State.csrStore_mem s false r v
@[simp] theorem State.csrWrite_consoleOut (s : State) (r : Csr) (v : Word) :
    (s.csrWrite r v).consoleOut = s.consoleOut := by
  unfold State.csrWrite; exact State.csrStore_consoleOut s false r v
@[simp] theorem State.csrWrite_tick (s : State) (r : Csr) (v : Word) :
    (s.csrWrite r v).tick = s.tick := by
  unfold State.csrWrite; exact State.csrStore_tick s false r v
@[simp] theorem State.csrWrite_flushes (s : State) (r : Csr) (v : Word) :
    (s.csrWrite r v).flushes = s.flushes := by
  unfold State.csrWrite; exact State.csrStore_flushes s false r v

/-! ## `afterVector` -/

@[simp] theorem State.afterVector_cfg (s : State) (e : TrapEvent) :
    (s.afterVector e).cfg = s.cfg := by
  unfold State.afterVector; split <;> [(split <;> simp); rfl]
@[simp] theorem State.afterVector_x (s : State) (e : TrapEvent) :
    (s.afterVector e).x = s.x := by
  unfold State.afterVector; split <;> [(split <;> simp); rfl]
@[simp] theorem State.afterVector_pc (s : State) (e : TrapEvent) :
    (s.afterVector e).pc = s.pc := by
  unfold State.afterVector; split <;> [(split <;> simp); rfl]
@[simp] theorem State.afterVector_priv (s : State) (e : TrapEvent) :
    (s.afterVector e).priv = s.priv := by
  unfold State.afterVector; split <;> [(split <;> simp); rfl]
@[simp] theorem State.afterVector_debugMode (s : State) (e : TrapEvent) :
    (s.afterVector e).debugMode = s.debugMode := by
  unfold State.afterVector; split <;> [(split <;> simp); rfl]
@[simp] theorem State.afterVector_csr (s : State) (e : TrapEvent) :
    (s.afterVector e).csr = s.csr := by
  unfold State.afterVector; split <;> [(split <;> simp); rfl]
@[simp] theorem State.afterVector_trig (s : State) (e : TrapEvent) :
    (s.afterVector e).trig = s.trig := by
  unfold State.afterVector; split <;> [(split <;> simp); rfl]
@[simp] theorem State.afterVector_mdseacLocked (s : State) (e : TrapEvent) :
    (s.afterVector e).mdseacLocked = s.mdseacLocked := by
  unfold State.afterVector; split <;> [(split <;> simp); rfl]
@[simp] theorem State.afterVector_debugHaltPending (s : State) (e : TrapEvent) :
    (s.afterVector e).debugHaltPending = s.debugHaltPending := by
  unfold State.afterVector; split <;> [(split <;> simp); rfl]
@[simp] theorem State.afterVector_stepPending (s : State) (e : TrapEvent) :
    (s.afterVector e).stepPending = s.stepPending := by
  unfold State.afterVector; split <;> [(split <;> simp); rfl]
@[simp] theorem State.afterVector_loadQueue (s : State) (e : TrapEvent) :
    (s.afterVector e).loadQueue = s.loadQueue := by
  unfold State.afterVector; split <;> [(split <;> simp); rfl]
@[simp] theorem State.afterVector_storeQueue (s : State) (e : TrapEvent) :
    (s.afterVector e).storeQueue = s.storeQueue := by
  unfold State.afterVector; split <;> [(split <;> simp); rfl]
@[simp] theorem State.afterVector_loadTag (s : State) (e : TrapEvent) :
    (s.afterVector e).loadTag = s.loadTag := by
  unfold State.afterVector; split <;> [(split <;> simp); rfl]
@[simp] theorem State.afterVector_clint (s : State) (e : TrapEvent) :
    (s.afterVector e).clint = s.clint := by
  unfold State.afterVector; split <;> [(split <;> simp); rfl]
@[simp] theorem State.afterVector_done (s : State) (e : TrapEvent) :
    (s.afterVector e).done = s.done := by
  unfold State.afterVector; split <;> [(split <;> simp); rfl]
@[simp] theorem State.afterVector_stopReason (s : State) (e : TrapEvent) :
    (s.afterVector e).stopReason = s.stopReason := by
  unfold State.afterVector; split <;> [(split <;> simp); rfl]
@[simp] theorem State.afterVector_execCount (s : State) (e : TrapEvent) :
    (s.afterVector e).execCount = s.execCount := by
  unfold State.afterVector; split <;> [(split <;> simp); rfl]
@[simp] theorem State.afterVector_counts (s : State) (e : TrapEvent) :
    (s.afterVector e).counts = s.counts := by
  unfold State.afterVector; split <;> [(split <;> simp); rfl]
@[simp] theorem State.afterVector_mem (s : State) (e : TrapEvent) :
    (s.afterVector e).mem = s.mem := by
  unfold State.afterVector; split <;> [(split <;> simp); rfl]
@[simp] theorem State.afterVector_consoleOut (s : State) (e : TrapEvent) :
    (s.afterVector e).consoleOut = s.consoleOut := by
  unfold State.afterVector; split <;> [(split <;> simp); rfl]
@[simp] theorem State.afterVector_ctx (s : State) (e : TrapEvent) :
    (s.afterVector e).ctx = s.ctx := by
  unfold State.afterVector; split <;> [(split <;> simp); rfl]
@[simp] theorem State.afterVector_flushes (s : State) (e : TrapEvent) :
    (s.afterVector e).flushes = s.flushes := by
  unfold State.afterVector; split <;> [(split <;> simp); rfl]

/-! ## `takeTrap` -/

@[simp] theorem State.takeTrap_cfg (s : State) (e : TrapEvent) :
    (s.takeTrap e).cfg = s.cfg := by
  unfold State.takeTrap; split <;> simp
@[simp] theorem State.takeTrap_x (s : State) (e : TrapEvent) :
    (s.takeTrap e).x = s.x := by
  unfold State.takeTrap; split <;> simp
@[simp] theorem State.takeTrap_debugMode (s : State) (e : TrapEvent) :
    (s.takeTrap e).debugMode = s.debugMode := by
  unfold State.takeTrap; split <;> simp
@[simp] theorem State.takeTrap_trig (s : State) (e : TrapEvent) :
    (s.takeTrap e).trig = s.trig := by
  unfold State.takeTrap; split <;> simp
@[simp] theorem State.takeTrap_mdseacLocked (s : State) (e : TrapEvent) :
    (s.takeTrap e).mdseacLocked = s.mdseacLocked := by
  unfold State.takeTrap; split <;> simp
@[simp] theorem State.takeTrap_debugHaltPending (s : State) (e : TrapEvent) :
    (s.takeTrap e).debugHaltPending = s.debugHaltPending := by
  unfold State.takeTrap; split <;> simp
@[simp] theorem State.takeTrap_stepPending (s : State) (e : TrapEvent) :
    (s.takeTrap e).stepPending = s.stepPending := by
  unfold State.takeTrap; split <;> simp
@[simp] theorem State.takeTrap_loadQueue (s : State) (e : TrapEvent) :
    (s.takeTrap e).loadQueue = s.loadQueue := by
  unfold State.takeTrap; split <;> simp
@[simp] theorem State.takeTrap_storeQueue (s : State) (e : TrapEvent) :
    (s.takeTrap e).storeQueue = s.storeQueue := by
  unfold State.takeTrap; split <;> simp
@[simp] theorem State.takeTrap_loadTag (s : State) (e : TrapEvent) :
    (s.takeTrap e).loadTag = s.loadTag := by
  unfold State.takeTrap; split <;> simp
@[simp] theorem State.takeTrap_clint (s : State) (e : TrapEvent) :
    (s.takeTrap e).clint = s.clint := by
  unfold State.takeTrap; split <;> simp
@[simp] theorem State.takeTrap_done (s : State) (e : TrapEvent) :
    (s.takeTrap e).done = s.done := by
  unfold State.takeTrap; split <;> simp
@[simp] theorem State.takeTrap_stopReason (s : State) (e : TrapEvent) :
    (s.takeTrap e).stopReason = s.stopReason := by
  unfold State.takeTrap; split <;> simp
@[simp] theorem State.takeTrap_execCount (s : State) (e : TrapEvent) :
    (s.takeTrap e).execCount = s.execCount := by
  unfold State.takeTrap; split <;> simp
@[simp] theorem State.takeTrap_mem (s : State) (e : TrapEvent) :
    (s.takeTrap e).mem = s.mem := by
  unfold State.takeTrap; split <;> simp
@[simp] theorem State.takeTrap_consoleOut (s : State) (e : TrapEvent) :
    (s.takeTrap e).consoleOut = s.consoleOut := by
  unfold State.takeTrap; split <;> simp
@[simp] theorem State.takeTrap_flushes (s : State) (e : TrapEvent) :
    (s.takeTrap e).flushes = s.flushes := by
  unfold State.takeTrap; split <;> simp

/-! ## `triggerAction` -/

@[simp] theorem State.triggerAction_cfg (s : State) (t : Trip) (p : Word) :
    (s.triggerAction t p).cfg = s.cfg := by
  unfold State.triggerAction; split <;> simp
@[simp] theorem State.triggerAction_x (s : State) (t : Trip) (p : Word) :
    (s.triggerAction t p).x = s.x := by
  unfold State.triggerAction; split <;> simp
@[simp] theorem State.triggerAction_trig (s : State) (t : Trip) (p : Word) :
    (s.triggerAction t p).trig = s.trig := by
  unfold State.triggerAction; split <;> simp
@[simp] theorem State.triggerAction_mdseacLocked (s : State) (t : Trip) (p : Word) :
    (s.triggerAction t p).mdseacLocked = s.mdseacLocked := by
  unfold State.triggerAction; split <;> simp
@[simp] theorem State.triggerAction_loadQueue (s : State) (t : Trip) (p : Word) :
    (s.triggerAction t p).loadQueue = s.loadQueue := by
  unfold State.triggerAction; split <;> simp
@[simp] theorem State.triggerAction_storeQueue (s : State) (t : Trip) (p : Word) :
    (s.triggerAction t p).storeQueue = s.storeQueue := by
  unfold State.triggerAction; split <;> simp
@[simp] theorem State.triggerAction_loadTag (s : State) (t : Trip) (p : Word) :
    (s.triggerAction t p).loadTag = s.loadTag := by
  unfold State.triggerAction; split <;> simp
@[simp] theorem State.triggerAction_clint (s : State) (t : Trip) (p : Word) :
    (s.triggerAction t p).clint = s.clint := by
  unfold State.triggerAction; split <;> simp
@[simp] theorem State.triggerAction_done (s : State) (t : Trip) (p : Word) :
    (s.triggerAction t p).done = s.done := by
  unfold State.triggerAction; split <;> simp
@[simp] theorem State.triggerAction_stopReason (s : State) (t : Trip) (p : Word) :
    (s.triggerAction t p).stopReason = s.stopReason := by
  unfold State.triggerAction; split <;> simp
@[simp] theorem State.triggerAction_execCount (s : State) (t : Trip) (p : Word) :
    (s.triggerAction t p).execCount = s.execCount := by
  unfold State.triggerAction; split <;> simp
@[simp] theorem State.triggerAction_mem (s : State) (t : Trip) (p : Word) :
    (s.triggerAction t p).mem = s.mem := by
  unfold State.triggerAction; split <;> simp
@[simp] theorem State.triggerAction_consoleOut (s : State) (t : Trip) (p : Word) :
    (s.triggerAction t p).consoleOut = s.consoleOut := by
  unfold State.triggerAction; split <;> simp
@[simp] theorem State.triggerAction_flushes (s : State) (t : Trip) (p : Word) :
    (s.triggerAction t p).flushes = s.flushes := by
  unfold State.triggerAction; split <;> simp

/-! ## `loadChecks` -/

@[simp] theorem State.loadChecks_cfg (s : State) (a v : Word) :
    (s.loadChecks a v).cfg = s.cfg := by simp [State.loadChecks]
@[simp] theorem State.loadChecks_x (s : State) (a v : Word) :
    (s.loadChecks a v).x = s.x := by simp [State.loadChecks]
@[simp] theorem State.loadChecks_pc (s : State) (a v : Word) :
    (s.loadChecks a v).pc = s.pc := by simp [State.loadChecks]
@[simp] theorem State.loadChecks_priv (s : State) (a v : Word) :
    (s.loadChecks a v).priv = s.priv := by simp [State.loadChecks]
@[simp] theorem State.loadChecks_debugMode (s : State) (a v : Word) :
    (s.loadChecks a v).debugMode = s.debugMode := by simp [State.loadChecks]
@[simp] theorem State.loadChecks_csr (s : State) (a v : Word) :
    (s.loadChecks a v).csr = s.csr := by simp [State.loadChecks]
@[simp] theorem State.loadChecks_nmiPending (s : State) (a v : Word) :
    (s.loadChecks a v).nmiPending = s.nmiPending := by simp [State.loadChecks]
@[simp] theorem State.loadChecks_nmiCause (s : State) (a v : Word) :
    (s.loadChecks a v).nmiCause = s.nmiCause := by simp [State.loadChecks]
@[simp] theorem State.loadChecks_mdseacLocked (s : State) (a v : Word) :
    (s.loadChecks a v).mdseacLocked = s.mdseacLocked := by simp [State.loadChecks]
@[simp] theorem State.loadChecks_debugHaltPending (s : State) (a v : Word) :
    (s.loadChecks a v).debugHaltPending = s.debugHaltPending := by simp [State.loadChecks]
@[simp] theorem State.loadChecks_stepPending (s : State) (a v : Word) :
    (s.loadChecks a v).stepPending = s.stepPending := by simp [State.loadChecks]
@[simp] theorem State.loadChecks_loadQueue (s : State) (a v : Word) :
    (s.loadChecks a v).loadQueue = s.loadQueue := by simp [State.loadChecks]
@[simp] theorem State.loadChecks_storeQueue (s : State) (a v : Word) :
    (s.loadChecks a v).storeQueue = s.storeQueue := by simp [State.loadChecks]
@[simp] theorem State.loadChecks_loadTag (s : State) (a v : Word) :
    (s.loadChecks a v).loadTag = s.loadTag := by simp [State.loadChecks]
@[simp] theorem State.loadChecks_clint (s : State) (a v : Word) :
    (s.loadChecks a v).clint = s.clint := by simp [State.loadChecks]
@[simp] theorem State.loadChecks_done (s : State) (a v : Word) :
    (s.loadChecks a v).done = s.done := by simp [State.loadChecks]
@[simp] theorem State.loadChecks_stopReason (s : State) (a v : Word) :
    (s.loadChecks a v).stopReason = s.stopReason := by simp [State.loadChecks]
@[simp] theorem State.loadChecks_execCount (s : State) (a v : Word) :
    (s.loadChecks a v).execCount = s.execCount := by simp [State.loadChecks]
@[simp] theorem State.loadChecks_counts (s : State) (a v : Word) :
    (s.loadChecks a v).counts = s.counts := by simp [State.loadChecks]
@[simp] theorem State.loadChecks_mem (s : State) (a v : Word) :
    (s.loadChecks a v).mem = s.mem := by simp [State.loadChecks]
@[simp] theorem State.loadChecks_consoleOut (s : State) (a v : Word) :
    (s.loadChecks a v).consoleOut = s.consoleOut := by simp [State.loadChecks]
@[simp] theorem State.loadChecks_tick (s : State) (a v : Word) :
    (s.loadChecks a v).tick = s.tick := by simp [State.loadChecks]
@[simp] theorem State.loadChecks_flushes (s : State) (a v : Word) :
    (s.loadChecks a v).flushes = s.flushes := by simp [State.loadChecks]

/-! ## `loadWrite` -/

@[simp] theorem State.loadWrite_cfg (s : State) (n : Nat) (e : LoadExt) (r : Reg) (a v : Word) :
    (s.loadWrite n e r a v).cfg = s.cfg := by
  unfold State.loadWrite; exact State.writeX_cfg s r _
@[simp] theorem State.loadWrite_pc (s : State) (n : Nat) (e : LoadExt) (r : Reg) (a v : Word) :
    (s.loadWrite n e r a v).pc = s.pc := by
  unfold State.loadWrite; exact State.writeX_pc s r _
@[simp] theorem State.loadWrite_priv (s : State) (n : Nat) (e : LoadExt) (r : Reg) (a v : Word) :
    (s.loadWrite n e r a v).priv = s.priv := by
  unfold State.loadWrite; exact State.writeX_priv s r _
@[simp] theorem State.loadWrite_debugMode (s : State) (n : Nat) (e : LoadExt) (r : Reg) (a v : Word) :
    (s.loadWrite n e r a v).debugMode = s.debugMode := by
  unfold State.loadWrite; exact State.writeX_debugMode s r _
@[simp] theorem State.loadWrite_csr (s : State) (n : Nat) (e : LoadExt) (r : Reg) (a v : Word) :
    (s.loadWrite n e r a v).csr = s.csr := by
  unfold State.loadWrite; exact State.writeX_csr s r _
@[simp] theorem State.loadWrite_trig (s : State) (n : Nat) (e : LoadExt) (r : Reg) (a v : Word) :
    (s.loadWrite n e r a v).trig = s.trig := by
  unfold State.loadWrite; exact State.writeX_trig s r _
@[simp] theorem State.loadWrite_nmiPending (s : State) (n : Nat) (e : LoadExt) (r : Reg) (a v : Word) :
    (s.loadWrite n e r a v).nmiPending = s.nmiPending := by
  unfold State.loadWrite; exact State.writeX_nmiPending s r _
@[simp] theorem State.loadWrite_nmiCause (s : State) (n : Nat) (e : LoadExt) (r : Reg) (a v : Word) :
    (s.loadWrite n e r a v).nmiCause = s.nmiCause := by
  unfold State.loadWrite; exact State.writeX_nmiCause s r _
@[simp] theorem State.loadWrite_mdseacLocked (s : State) (n : Nat) (e : LoadExt) (r : Reg) (a v : Word) :
    (s.loadWrite n e r a v).mdseacLocked = s.mdseacLocked := by
  unfold State.loadWrite; exact State.writeX_mdseacLocked s r _
@[simp] theorem State.loadWrite_debugHaltPending (s : State) (n : Nat) (e : LoadExt) (r : Reg) (a v : Word) :
    (s.loadWrite n e r a v).debugHaltPending = s.debugHaltPending := by
  unfold State.loadWrite; exact State.writeX_debugHaltPending s r _
@[simp] theorem State.loadWrite_stepPending (s : State) (n : Nat) (e : LoadExt) (r : Reg) (a v : Word) :
    (s.loadWrite n e r a v).stepPending = s.stepPending := by
  unfold State.loadWrite; exact State.writeX_stepPending s r _
@[simp] theorem State.loadWrite_loadQueue (s : State) (n : Nat) (e : LoadExt) (r : Reg) (a v : Word) :
    (s.loadWrite n e r a v).loadQueue = s.loadQueue := by
  unfold State.loadWrite; exact State.writeX_loadQueue s r _
@[simp] theorem State.loadWrite_storeQueue (s : State) (n : Nat) (e : LoadExt) (r : Reg) (a v : Word) :
    (s.loadWrite n e r a v).storeQueue = s.storeQueue := by
  unfold State.loadWrite; exact State.writeX_storeQueue s r _
@[simp] theorem State.loadWrite_loadTag (s : State) (n : Nat) (e : LoadExt) (r : Reg) (a v : Word) :
    (s.loadWrite n e r a v).loadTag = s.loadTag := by
  unfold State.loadWrite; exact State.writeX_loadTag s r _
@[simp] theorem State.loadWrite_clint (s : State) (n : Nat) (e : LoadExt) (r : Reg) (a v : Word) :
    (s.loadWrite n e r a v).clint = s.clint := by
  unfold State.loadWrite; exact State.writeX_clint s r _
@[simp] theorem State.loadWrite_done (s : State) (n : Nat) (e : LoadExt) (r : Reg) (a v : Word) :
    (s.loadWrite n e r a v).done = s.done := by
  unfold State.loadWrite; exact State.writeX_done s r _
@[simp] theorem State.loadWrite_stopReason (s : State) (n : Nat) (e : LoadExt) (r : Reg) (a v : Word) :
    (s.loadWrite n e r a v).stopReason = s.stopReason := by
  unfold State.loadWrite; exact State.writeX_stopReason s r _
@[simp] theorem State.loadWrite_execCount (s : State) (n : Nat) (e : LoadExt) (r : Reg) (a v : Word) :
    (s.loadWrite n e r a v).execCount = s.execCount := by
  unfold State.loadWrite; exact State.writeX_execCount s r _
@[simp] theorem State.loadWrite_counts (s : State) (n : Nat) (e : LoadExt) (r : Reg) (a v : Word) :
    (s.loadWrite n e r a v).counts = s.counts := by
  unfold State.loadWrite; exact State.writeX_counts s r _
@[simp] theorem State.loadWrite_mem (s : State) (n : Nat) (e : LoadExt) (r : Reg) (a v : Word) :
    (s.loadWrite n e r a v).mem = s.mem := by
  unfold State.loadWrite; exact State.writeX_mem s r _
@[simp] theorem State.loadWrite_consoleOut (s : State) (n : Nat) (e : LoadExt) (r : Reg) (a v : Word) :
    (s.loadWrite n e r a v).consoleOut = s.consoleOut := by
  unfold State.loadWrite; exact State.writeX_consoleOut s r _
@[simp] theorem State.loadWrite_tick (s : State) (n : Nat) (e : LoadExt) (r : Reg) (a v : Word) :
    (s.loadWrite n e r a v).tick = s.tick := by
  unfold State.loadWrite; exact State.writeX_tick s r _
@[simp] theorem State.loadWrite_flushes (s : State) (n : Nat) (e : LoadExt) (r : Reg) (a v : Word) :
    (s.loadWrite n e r a v).flushes = s.flushes := by
  unfold State.loadWrite; exact State.writeX_flushes s r _

/-! ## `storeChecks` -/

@[simp] theorem State.storeChecks_cfg (s : State) (tm : Timing) (a v : Word) :
    (s.storeChecks tm a v).2.cfg = s.cfg := by simp [State.storeChecks]
@[simp] theorem State.storeChecks_x (s : State) (tm : Timing) (a v : Word) :
    (s.storeChecks tm a v).2.x = s.x := by simp [State.storeChecks]
@[simp] theorem State.storeChecks_pc (s : State) (tm : Timing) (a v : Word) :
    (s.storeChecks tm a v).2.pc = s.pc := by simp [State.storeChecks]
@[simp] theorem State.storeChecks_priv (s : State) (tm : Timing) (a v : Word) :
    (s.storeChecks tm a v).2.priv = s.priv := by simp [State.storeChecks]
@[simp] theorem State.storeChecks_debugMode (s : State) (tm : Timing) (a v : Word) :
    (s.storeChecks tm a v).2.debugMode = s.debugMode := by simp [State.storeChecks]
@[simp] theorem State.storeChecks_csr (s : State) (tm : Timing) (a v : Word) :
    (s.storeChecks tm a v).2.csr = s.csr := by simp [State.storeChecks]
@[simp] theorem State.storeChecks_nmiPending (s : State) (tm : Timing) (a v : Word) :
    (s.storeChecks tm a v).2.nmiPending = s.nmiPending := by simp [State.storeChecks]
@[simp] theorem State.storeChecks_nmiCause (s : State) (tm : Timing) (a v : Word) :
    (s.storeChecks tm a v).2.nmiCause = s.nmiCause := by simp [State.storeChecks]
@[simp] theorem State.storeChecks_mdseacLocked (s : State) (tm : Timing) (a v : Word) :
    (s.storeChecks tm a v).2.mdseacLocked = s.mdseacLocked := by simp [State.storeChecks]
@[simp] theorem State.storeChecks_debugHaltPending (s : State) (tm : Timing) (a v : Word) :
    (s.storeChecks tm a v).2.debugHaltPending = s.debugHaltPending := by simp [State.storeChecks]
@[simp] theorem State.storeChecks_stepPending (s : State) (tm : Timing) (a v : Word) :
    (s.storeChecks tm a v).2.stepPending = s.stepPending := by simp [State.storeChecks]
@[simp] theorem State.storeChecks_loadQueue (s : State) (tm : Timing) (a v : Word) :
    (s.storeChecks tm a v).2.loadQueue = s.loadQueue := by simp [State.storeChecks]
@[simp] theorem State.storeChecks_storeQueue (s : State) (tm : Timing) (a v : Word) :
    (s.storeChecks tm a v).2.storeQueue = s.storeQueue := by simp [State.storeChecks]
@[simp] theorem State.storeChecks_loadTag (s : State) (tm : Timing) (a v : Word) :
    (s.storeChecks tm a v).2.loadTag = s.loadTag := by simp [State.storeChecks]
@[simp] theorem State.storeChecks_clint (s : State) (tm : Timing) (a v : Word) :
    (s.storeChecks tm a v).2.clint = s.clint := by simp [State.storeChecks]
@[simp] theorem State.storeChecks_done (s : State) (tm : Timing) (a v : Word) :
    (s.storeChecks tm a v).2.done = s.done := by simp [State.storeChecks]
@[simp] theorem State.storeChecks_stopReason (s : State) (tm : Timing) (a v : Word) :
    (s.storeChecks tm a v).2.stopReason = s.stopReason := by simp [State.storeChecks]
@[simp] theorem State.storeChecks_execCount (s : State) (tm : Timing) (a v : Word) :
    (s.storeChecks tm a v).2.execCount = s.execCount := by simp [State.storeChecks]
@[simp] theorem State.storeChecks_counts (s : State) (tm : Timing) (a v : Word) :
    (s.storeChecks tm a v).2.counts = s.counts := by simp [State.storeChecks]
@[simp] theorem State.storeChecks_mem (s : State) (tm : Timing) (a v : Word) :
    (s.storeChecks tm a v).2.mem = s.mem := by simp [State.storeChecks]
@[simp] theorem State.storeChecks_consoleOut (s : State) (tm : Timing) (a v : Word) :
    (s.storeChecks tm a v).2.consoleOut = s.consoleOut := by simp [State.storeChecks]
@[simp] theorem State.storeChecks_ctx (s : State) (tm : Timing) (a v : Word) :
    (s.storeChecks tm a v).2.ctx = s.ctx := by simp [State.storeChecks]
@[simp] theorem State.storeChecks_tick (s : State) (tm : Timing) (a v : Word) :
    (s.storeChecks tm a v).2.tick = s.tick := by simp [State.storeChecks]
@[simp] theorem State.storeChecks_flushes (s : State) (tm : Timing) (a v : Word) :
    (s.storeChecks tm a v).2.flushes = s.flushes := by simp [State.storeChecks]

/-! ## `countTriggers` -/

@[simp] theorem State.countTriggers_cfg (s : State) :
    (s.countTriggers).cfg = s.cfg := by
  unfold State.countTriggers; dsimp only; split <;> simp
@[simp] theorem State.countTriggers_x (s : State) :
    (s.countTriggers).x = s.x := by
  unfold State.countTriggers; dsimp only; split <;> simp
@[simp] theorem State.countTriggers_mdseacLocked (s : State) :
    (s.countTriggers).mdseacLocked = s.mdseacLocked := by
  unfold State.countTriggers; dsimp only; split <;> simp
@[simp] theorem State.countTriggers_loadQueue (s : State) :
    (s.countTriggers).loadQueue = s.loadQueue := by
  unfold State.countTriggers; dsimp only; split <;> simp
@[simp] theorem State.countTriggers_storeQueue (s : State) :
    (s.countTriggers).storeQueue = s.storeQueue := by
  unfold State.countTriggers; dsimp only; split <;> simp
@[simp] theorem State.countTriggers_loadTag (s : State) :
    (s.countTriggers).loadTag = s.loadTag := by
  unfold State.countTriggers; dsimp only; split <;> simp
@[simp] theorem State.countTriggers_clint (s : State) :
    (s.countTriggers).clint = s.clint := by
  unfold State.countTriggers; dsimp only; split <;> simp
@[simp] theorem State.countTriggers_done (s : State) :
    (s.countTriggers).done = s.done := by
  unfold State.countTriggers; dsimp only; split <;> simp
@[simp] theorem State.countTriggers_stopReason (s : State) :
    (s.countTriggers).stopReason = s.stopReason := by
  unfold State.countTriggers; dsimp only; split <;> simp
@[simp] theorem State.countTriggers_execCount (s : State) :
    (s.countTriggers).execCount = s.execCount := by
  unfold State.countTriggers; dsimp only; split <;> simp
@[simp] theorem State.countTriggers_mem (s : State) :
    (s.countTriggers).mem = s.mem := by
  unfold State.countTriggers; dsimp only; split <;> simp
@[simp] theorem State.countTriggers_consoleOut (s : State) :
    (s.countTriggers).consoleOut = s.consoleOut := by
  unfold State.countTriggers; dsimp only; split <;> simp
@[simp] theorem State.countTriggers_flushes (s : State) :
    (s.countTriggers).flushes = s.flushes := by
  unfold State.countTriggers; dsimp only; split <;> simp

/-! ## `endSingleStep` -/

@[simp] theorem State.endSingleStep_cfg (s : State) :
    (s.endSingleStep).cfg = s.cfg := by
  unfold State.endSingleStep; split <;> simp
@[simp] theorem State.endSingleStep_x (s : State) :
    (s.endSingleStep).x = s.x := by
  unfold State.endSingleStep; split <;> simp
@[simp] theorem State.endSingleStep_pc (s : State) :
    (s.endSingleStep).pc = s.pc := by
  unfold State.endSingleStep; split <;> simp
@[simp] theorem State.endSingleStep_priv (s : State) :
    (s.endSingleStep).priv = s.priv := by
  unfold State.endSingleStep; split <;> simp
@[simp] theorem State.endSingleStep_trig (s : State) :
    (s.endSingleStep).trig = s.trig := by
  unfold State.endSingleStep; split <;> simp
@[simp] theorem State.endSingleStep_nmiPending (s : State) :
    (s.endSingleStep).nmiPending = s.nmiPending := by
  unfold State.endSingleStep; split <;> simp
@[simp] theorem State.endSingleStep_nmiCause (s : State) :
    (s.endSingleStep).nmiCause = s.nmiCause := by
  unfold State.endSingleStep; split <;> simp
@[simp] theorem State.endSingleStep_mdseacLocked (s : State) :
    (s.endSingleStep).mdseacLocked = s.mdseacLocked := by
  unfold State.endSingleStep; split <;> simp
@[simp] theorem State.endSingleStep_loadQueue (s : State) :
    (s.endSingleStep).loadQueue = s.loadQueue := by
  unfold State.endSingleStep; split <;> simp
@[simp] theorem State.endSingleStep_storeQueue (s : State) :
    (s.endSingleStep).storeQueue = s.storeQueue := by
  unfold State.endSingleStep; split <;> simp
@[simp] theorem State.endSingleStep_loadTag (s : State) :
    (s.endSingleStep).loadTag = s.loadTag := by
  unfold State.endSingleStep; split <;> simp
@[simp] theorem State.endSingleStep_clint (s : State) :
    (s.endSingleStep).clint = s.clint := by
  unfold State.endSingleStep; split <;> simp
@[simp] theorem State.endSingleStep_done (s : State) :
    (s.endSingleStep).done = s.done := by
  unfold State.endSingleStep; split <;> simp
@[simp] theorem State.endSingleStep_stopReason (s : State) :
    (s.endSingleStep).stopReason = s.stopReason := by
  unfold State.endSingleStep; split <;> simp
@[simp] theorem State.endSingleStep_execCount (s : State) :
    (s.endSingleStep).execCount = s.execCount := by
  unfold State.endSingleStep; split <;> simp
@[simp] theorem State.endSingleStep_counts (s : State) :
    (s.endSingleStep).counts = s.counts := by
  unfold State.endSingleStep; split <;> simp
@[simp] theorem State.endSingleStep_mem (s : State) :
    (s.endSingleStep).mem = s.mem := by
  unfold State.endSingleStep; split <;> simp
@[simp] theorem State.endSingleStep_consoleOut (s : State) :
    (s.endSingleStep).consoleOut = s.consoleOut := by
  unfold State.endSingleStep; split <;> simp
@[simp] theorem State.endSingleStep_tick (s : State) :
    (s.endSingleStep).tick = s.tick := by
  unfold State.endSingleStep; split <;> simp
@[simp] theorem State.endSingleStep_flushes (s : State) :
    (s.endSingleStep).flushes = s.flushes := by
  unfold State.endSingleStep; split <;> simp

/-! ## `stopCheck` -/

@[simp] theorem State.stopCheck_cfg (s : State) :
    (s.stopCheck).cfg = s.cfg := by
  unfold State.stopCheck; split <;> rfl
@[simp] theorem State.stopCheck_x (s : State) :
    (s.stopCheck).x = s.x := by
  unfold State.stopCheck; split <;> rfl
@[simp] theorem State.stopCheck_pc (s : State) :
    (s.stopCheck).pc = s.pc := by
  unfold State.stopCheck; split <;> rfl
@[simp] theorem State.stopCheck_priv (s : State) :
    (s.stopCheck).priv = s.priv := by
  unfold State.stopCheck; split <;> rfl
@[simp] theorem State.stopCheck_debugMode (s : State) :
    (s.stopCheck).debugMode = s.debugMode := by
  unfold State.stopCheck; split <;> rfl
@[simp] theorem State.stopCheck_csr (s : State) :
    (s.stopCheck).csr = s.csr := by
  unfold State.stopCheck; split <;> rfl
@[simp] theorem State.stopCheck_trig (s : State) :
    (s.stopCheck).trig = s.trig := by
  unfold State.stopCheck; split <;> rfl
@[simp] theorem State.stopCheck_nmiPending (s : State) :
    (s.stopCheck).nmiPending = s.nmiPending := by
  unfold State.stopCheck; split <;> rfl
@[simp] theorem State.stopCheck_nmiCause (s : State) :
    (s.stopCheck).nmiCause = s.nmiCause := by
  unfold State.stopCheck; split <;> rfl
@[simp] theorem State.stopCheck_mdseacLocked (s : State) :
    (s.stopCheck).mdseacLocked = s.mdseacLocked := by
  unfold State.stopCheck; split <;> rfl
@[simp] theorem State.stopCheck_debugHaltPending (s : State) :
    (s.stopCheck).debugHaltPending = s.debugHaltPending := by
  unfold State.stopCheck; split <;> rfl
@[simp] theorem State.stopCheck_stepPending (s : State) :
    (s.stopCheck).stepPending = s.stepPending := by
  unfold State.stopCheck; split <;> rfl
@[simp] theorem State.stopCheck_loadQueue (s : State) :
    (s.stopCheck).loadQueue = s.loadQueue := by
  unfold State.stopCheck; split <;> rfl
@[simp] theorem State.stopCheck_storeQueue (s : State) :
    (s.stopCheck).storeQueue = s.storeQueue := by
  unfold State.stopCheck; split <;> rfl
@[simp] theorem State.stopCheck_loadTag (s : State) :
    (s.stopCheck).loadTag = s.loadTag := by
  unfold State.stopCheck; split <;> rfl
@[simp] theorem State.stopCheck_clint (s : State) :
    (s.stopCheck).clint = s.clint := by
  unfold State.stopCheck; split <;> rfl
@[simp] theorem State.stopCheck_execCount (s : State) :
    (s.stopCheck).execCount = s.execCount := by
  unfold State.stopCheck; split <;> rfl
@[simp] theorem State.stopCheck_counts (s : State) :
    (s.stopCheck).counts = s.counts := by
  unfold State.stopCheck; split <;> rfl
@[simp] theorem State.stopCheck_mem (s : State) :
    (s.stopCheck).mem = s.mem := by
  unfold State.stopCheck; split <;> rfl
@[simp] theorem State.stopCheck_consoleOut (s : State) :
    (s.stopCheck).consoleOut = s.consoleOut := by
  unfold State.stopCheck; split <;> rfl
@[simp] theorem State.stopCheck_ctx (s : State) :
    (s.stopCheck).ctx = s.ctx := by
  unfold State.stopCheck; split <;> rfl
@[simp] theorem State.stopCheck_tick (s : State) :
    (s.stopCheck).tick = s.tick := by
  unfold State.stopCheck; split <;> rfl
@[simp] theorem State.stopCheck_flushes (s : State) :
    (s.stopCheck).flushes = s.flushes := by
  unfold State.stopCheck; split <;> rfl

/-! ## What the updates make of the fields they change -/

@[simp] theorem State.startInstr_ctx_nextPc (s : State) (len : Nat) :
    (s.startInstr len).ctx.nextPc = s.pc + BitVec.ofNat 64 len := rfl
@[simp] theorem State.startInstr_ctx_afterTrips (s : State) (len : Nat) : (s.startInstr len).ctx.afterTrips = [] := rfl
@[simp] theorem State.startInstr_ctx_load (s : State) (len : Nat) : (s.startInstr len).ctx.load = none := rfl
@[simp] theorem State.startInstr_ctx_store (s : State) (len : Nat) : (s.startInstr len).ctx.store = none := rfl
@[simp] theorem State.startInstr_ctx_wroteX (s : State) (len : Nat) : (s.startInstr len).ctx.wroteX = none := rfl
@[simp] theorem State.startInstr_ctx_retired (s : State) (len : Nat) : (s.startInstr len).ctx.retired = false := rfl
@[simp] theorem State.startInstr_ctx_csrWritten (s : State) (len : Nat) : (s.startInstr len).ctx.csrWritten = [] := rfl
@[simp] theorem State.startInstr_ctx_csrOld (s : State) (len : Nat) : (s.startInstr len).ctx.csrOld = [] := rfl
@[simp] theorem State.startInstr_ctx_startPc (s : State) (len : Nat) : (s.startInstr len).ctx.startPc = s.pc := rfl
@[simp] theorem State.startInstr_ctx_startPriv (s : State) (len : Nat) : (s.startInstr len).ctx.startPriv = s.priv := rfl
@[simp] theorem State.startInstr_ctx_slotWritten (s : State) (len : Nat) : (s.startInstr len).ctx.slotWritten = none := rfl
@[simp] theorem State.writeX_ctx_csrOld (s : State) (r : Reg) (v : Word) :
    (s.writeX r v).ctx.csrOld = s.ctx.csrOld := by simp [State.writeX]
@[simp] theorem State.writeX_ctx_slotWritten (s : State) (r : Reg) (v : Word) :
    (s.writeX r v).ctx.slotWritten = s.ctx.slotWritten := by simp [State.writeX]
@[simp] theorem State.writeX_ctx_nextPc (s : State) (r : Reg) (v : Word) :
    (s.writeX r v).ctx.nextPc = s.ctx.nextPc := by simp [State.writeX]
@[simp] theorem State.writeX_ctx_afterTrips (s : State) (r : Reg) (v : Word) :
    (s.writeX r v).ctx.afterTrips = s.ctx.afterTrips := by simp [State.writeX]
@[simp] theorem State.writeX_ctx_load (s : State) (r : Reg) (v : Word) :
    (s.writeX r v).ctx.load = s.ctx.load := by simp [State.writeX]
@[simp] theorem State.writeX_ctx_store (s : State) (r : Reg) (v : Word) :
    (s.writeX r v).ctx.store = s.ctx.store := by simp [State.writeX]
@[simp] theorem State.writeX_ctx_csrWritten (s : State) (r : Reg) (v : Word) :
    (s.writeX r v).ctx.csrWritten = s.ctx.csrWritten := by simp [State.writeX]
theorem State.writeX_x (s : State) (r : Reg) (v : Word) : (s.writeX r v).x = (s.setX r v).x := rfl
@[simp] theorem State.setNextPc_ctx_nextPc (s : State) (t : Word) : (s.setNextPc t).ctx.nextPc = t := rfl
@[simp] theorem State.setNextPc_ctx_store (s : State) (t : Word) : (s.setNextPc t).ctx.store = s.ctx.store := rfl
@[simp] theorem State.setNextPc_ctx_afterTrips (s : State) (t : Word) :
    (s.setNextPc t).ctx.afterTrips = s.ctx.afterTrips := rfl
@[simp] theorem State.commit_pc (s : State) : s.commit.pc = s.ctx.nextPc := rfl
@[simp] theorem State.commit_retired (s : State) : s.commit.ctx.retired = true := rfl
@[simp] theorem State.returnM_ctx_nextPc (s : State) : s.returnM.ctx.nextPc = s.csr.mepc := rfl
@[simp] theorem State.returnM_priv (s : State) : s.returnM.priv = modeOf (mppOf s.csr.mstatus) := rfl
@[simp] theorem State.returnS_ctx_nextPc (s : State) : s.returnS.ctx.nextPc = s.csr.sepc := rfl
@[simp] theorem State.enterM_pc (s : State) (e : TrapEvent) (p : Word) : (s.enterM e p).pc = p := rfl
@[simp] theorem State.enterM_priv (s : State) (e : TrapEvent) (p : Word) : (s.enterM e p).priv = .m := rfl
@[simp] theorem State.enterM_mepc (s : State) (e : TrapEvent) (p : Word) :
    (s.enterM e p).csr.mepc = e.epc s.pc &&& s.cfg.epcMask := rfl
@[simp] theorem State.enterM_mcause (s : State) (e : TrapEvent) (p : Word) :
    (s.enterM e p).csr.mcause = e.causeWord := rfl
@[simp] theorem State.enterM_mtval (s : State) (e : TrapEvent) (p : Word) : (s.enterM e p).csr.mtval = e.tval := rfl
@[simp] theorem State.enterM_mscause (s : State) (e : TrapEvent) (p : Word) :
    (s.enterM e p).csr.mscause = s.cfg.secondary e := rfl
@[simp] theorem State.enterM_mstatus (s : State) (e : TrapEvent) (p : Word) :
    (s.enterM e p).csr.mstatus = statusToM s.csr.mstatus s.priv := rfl
@[simp] theorem State.enterS_pc (s : State) (e : TrapEvent) : (s.enterS e).pc = vectorOf s.csr.stvec e := rfl
@[simp] theorem State.enterS_priv (s : State) (e : TrapEvent) : (s.enterS e).priv = .s := rfl
@[simp] theorem State.enterS_sepc (s : State) (e : TrapEvent) :
    (s.enterS e).csr.sepc = e.epc s.pc &&& s.cfg.epcMask := rfl
@[simp] theorem State.enterS_scause (s : State) (e : TrapEvent) : (s.enterS e).csr.scause = e.causeWord := rfl
@[simp] theorem State.enterS_stval (s : State) (e : TrapEvent) : (s.enterS e).csr.stval = e.tval := rfl
@[simp] theorem State.enterS_mstatus (s : State) (e : TrapEvent) :
    (s.enterS e).csr.mstatus = statusToS s.csr.mstatus s.priv := rfl
@[simp] theorem State.enterDebug_debugMode (s : State) (c : DebugCause) (p : Word) :
    (s.enterDebug c p).debugMode = true := rfl
@[simp] theorem State.enterDebug_stepPending (s : State) (c : DebugCause) (p : Word) :
    (s.enterDebug c p).stepPending = false := rfl
@[simp] theorem State.enterDebug_debugHaltPending (s : State) (c : DebugCause) (p : Word) :
    (s.enterDebug c p).debugHaltPending = false := rfl
@[simp] theorem State.enterDebug_dpc (s : State) (c : DebugCause) (p : Word) :
    (s.enterDebug c p).csr.dpc = p &&& s.cfg.epcMask := rfl
@[simp] theorem State.takeNmi_pc (s : State) : s.takeNmi.pc = s.cfg.nmiPc := rfl
@[simp] theorem State.takeNmi_priv (s : State) : s.takeNmi.priv = .m := rfl
@[simp] theorem State.takeNmi_nmiPending (s : State) : s.takeNmi.nmiPending = false := rfl

end Sys2Proof.Machine
end

