-- ==== Sys2Proof/Laws/Memory.lean ====
section
/-! SUPPORT. The memory operations keep the canonical form, and a read after a write gives the value written at the
same address and what stood there at any other. -/

namespace Sys2Proof.Machine

/-- Every address of a memory is above a bound. -/
def Memory.above (m : Memory) (a : Nat) : Prop := ∀ p ∈ m, a < p.1

theorem Memory.wf_nil : Memory.wf [] := by simp [Memory.wf]

theorem Memory.wf_cons {k : Nat} {b : Byte} {t : Memory} :
    Memory.wf ((k, b) :: t) ↔ Memory.above t k ∧ b ≠ Memory.unlisted ∧ Memory.wf t := by
  simp only [Memory.wf, Memory.above, List.pairwise_cons, List.mem_cons, forall_eq_or_imp]
  tauto

theorem Memory.read_above {m : Memory} {a : Nat} (h : Memory.above m a) : Memory.read m a = Memory.unlisted := by
  cases m with
  | nil => rfl
  | cons p t =>
    have : a < p.1 := h p (by simp)
    simp only [Memory.read]
    rw [if_neg (by omega), if_neg (by omega)]

theorem Memory.above_write {m : Memory} {k a : Nat} {v : Byte} (h : Memory.above m k) (hk : k < a) :
    Memory.above (Memory.write m a v) k := by
  induction m with
  | nil =>
    intro p hp
    simp only [Memory.write] at hp
    split at hp <;> simp_all
  | cons q t ih =>
    obtain ⟨j, b⟩ := q
    have ht : Memory.above t k := fun p hp => h p (List.mem_cons_of_mem _ hp)
    have hj : k < j := h (j, b) (by simp)
    intro p hp
    simp only [Memory.write] at hp
    split at hp
    · rcases List.mem_cons.1 hp with rfl | hp
      · exact hj
      · exact ih ht p hp
    · split at hp
      · split at hp
        · exact ht p hp
        · rcases List.mem_cons.1 hp with rfl | hp
          · exact hk
          · exact ht p hp
      · split at hp
        · exact h p hp
        · rcases List.mem_cons.1 hp with rfl | hp
          · exact hk
          · exact h p hp

/-- A write keeps the canonical form. -/
theorem Memory.wf_write {m : Memory} (h : Memory.wf m) (a : Nat) (v : Byte) : Memory.wf (Memory.write m a v) := by
  induction m with
  | nil => simp only [Memory.write]; split <;> simp_all [Memory.wf]
  | cons q t ih =>
    obtain ⟨k, b⟩ := q
    obtain ⟨ha, hb, ht⟩ := Memory.wf_cons.1 h
    simp only [Memory.write]
    split
    · rename_i hk
      exact Memory.wf_cons.2 ⟨Memory.above_write ha hk, hb, ih ht⟩
    · split
      · rename_i hk
        subst hk
        split
        · exact ht
        · rename_i hv; exact Memory.wf_cons.2 ⟨ha, hv, ht⟩
      · split
        · exact h
        · rename_i h1 h2 hv
          refine Memory.wf_cons.2 ⟨?_, hv, h⟩
          intro p hp
          rcases List.mem_cons.1 hp with rfl | hp
          · simp only; omega
          · have := ha p hp; omega

/-- Reading where one has just written. -/
theorem Memory.read_write_same {m : Memory} (h : Memory.wf m) (a : Nat) (v : Byte) :
    Memory.read (Memory.write m a v) a = v := by
  induction m with
  | nil => simp only [Memory.write]; split <;> simp_all [Memory.read]
  | cons q t ih =>
    obtain ⟨k, b⟩ := q
    obtain ⟨ha, hb, ht⟩ := Memory.wf_cons.1 h
    simp only [Memory.write]
    split
    · rename_i hk; simp only [Memory.read, if_pos hk]; exact ih ht
    · split
      · rename_i hk
        subst hk
        split
        · rename_i hv; rw [Memory.read_above ha, hv]
        · simp [Memory.read]
      · split
        · rename_i h1 h2 hv; simp only [Memory.read, if_neg h1, if_neg h2, hv]
        · simp [Memory.read]

/-- Reading anywhere else. -/
theorem Memory.read_write_other {m : Memory} (h : Memory.wf m) {a c : Nat} (hne : c ≠ a) (v : Byte) :
    Memory.read (Memory.write m a v) c = Memory.read m c := by
  induction m with
  | nil =>
    simp only [Memory.write]
    split
    · rfl
    · simp only [Memory.read]; split
      · rfl
      · rw [if_neg (Ne.symm hne)]
  | cons q t ih =>
    obtain ⟨k, b⟩ := q
    obtain ⟨ha, hb, ht⟩ := Memory.wf_cons.1 h
    simp only [Memory.write]
    split
    · simp only [Memory.read]; rw [ih ht]
    · split
      · rename_i hk
        subst hk
        split
        · simp only [Memory.read]
          split
          · rfl
          · rw [if_neg (Ne.symm hne)]
            exact Memory.read_above fun p hp => by have := ha p hp; omega
        · simp only [Memory.read]
          split
          · rfl
          · rw [if_neg (Ne.symm hne), if_neg (Ne.symm hne)]
      · split
        · rfl
        · rename_i h1 h2 hv
          simp only [Memory.read]
          split
          · rfl
          · rw [if_neg (Ne.symm hne)]
            have hk : ¬ k < c := by omega
            have hk2 : k ≠ c := by omega
            rw [if_neg hk, if_neg hk2]

/-- A physical write keeps memory's canonical form. -/
theorem State.setPhysByte_wf {s : State} (h : s.mem.wf) (b : Word) (v : Byte) : (s.setPhysByte b v).mem.wf := by
  unfold State.setPhysByte
  split
  · exact h
  · split
    · exact h
    · exact Memory.wf_write h _ _

theorem State.setPhysBytes_wf {s : State} (h : s.mem.wf) (ps : List Word) (bs : List Byte) :
    (s.setPhysBytes ps bs).mem.wf := by
  induction ps generalizing s bs with
  | nil => simpa [State.setPhysBytes] using h
  | cons p ps ih =>
    cases bs with
    | nil => simpa [State.setPhysBytes] using h
    | cons b bs => simpa [State.setPhysBytes] using ih (State.setPhysByte_wf h p b) bs

end Sys2Proof.Machine
end

