-- ==== Sys2Proof/Laws/Operands.lean ====
section
/-! SUPPORT. What reading and writing general registers do to each other, and the bits of the bit-field helpers. -/

namespace Sys2Proof.Machine

@[simp] theorem State.readX_zero (s : State) : s.readX 0#5 = 0#64 := by simp [State.readX]

theorem State.readX_congr {s t : State} (h : t.x = s.x) (r : Reg) : t.readX r = s.readX r := by
  simp [State.readX, h]

theorem toNat_ne_zero {r : Reg} (h : r ≠ 0#5) : r.toNat ≠ 0 := fun e => h (BitVec.eq_of_toNat_eq e)

/-- Reading after a write: the written value, or what stood there; a write of `x0` is discarded. -/
theorem State.readX_setX (s : State) (r q : Reg) (v : Word) :
    (s.setX r v).readX q = if q = r ∧ r ≠ 0#5 then v else s.readX q := by
  by_cases hr : r = 0#5
  · subst hr; simp [State.setX]
  · have hr' := toNat_ne_zero hr
    by_cases hq : q = 0#5
    · subst hq; simp [State.readX, Ne.symm hr]
    · have hq' := toNat_ne_zero hq
      have hrl := r.isLt
      have hql := q.isLt
      simp only [State.readX, State.setX, dif_neg hr', dif_neg hq']
      by_cases hqr : q = r
      · subst hqr; simp [hr]
      · have : r.toNat ≠ q.toNat := fun e => hqr (BitVec.eq_of_toNat_eq e.symm)
        rw [Vector.getElem_set_ne]
        · simp [hqr]
        · omega

theorem State.readX_writeX (s : State) (r q : Reg) (v : Word) :
    (s.writeX r v).readX q = if q = r ∧ r ≠ 0#5 then v else s.readX q := by
  rw [State.readX_congr (State.writeX_x s r v), State.readX_setX]

@[simp] theorem State.readX_startInstr (s : State) (len : Nat) (q : Reg) : (s.startInstr len).readX q = s.readX q :=
  State.readX_congr rfl q
@[simp] theorem State.readX_commit (s : State) (q : Reg) : s.commit.readX q = s.readX q := State.readX_congr rfl q
@[simp] theorem State.readX_setNextPc (s : State) (t : Word) (q : Reg) : (s.setNextPc t).readX q = s.readX q :=
  State.readX_congr rfl q
@[simp] theorem State.readX_undo (s t : State) (q : Reg) : (s.undo t).readX q = s.readX q := State.readX_congr rfl q

/-- The bits of a value with one bit replaced. -/
theorem getLsbD_putBit (v : Word) (i j : Nat) (b : Bool) (h : i < 64) :
    (putBit v i b).getLsbD j = if j = i then b else v.getLsbD j := by
  unfold putBit
  by_cases hj : j < 64
  · cases b
    · by_cases e : j = i
      · subst e; simp [hj]
      · have : ¬ (j ≥ i ∧ j - i = 0) := by omega
        simp [e, hj]
        intro _
        by_cases l : j < i
        · simp [l]
        · simp [l]; omega
    · by_cases e : j = i
      · subst e; simp [hj]
      · simp [e, hj]
        intro _
        omega
  · have h1 : ∀ w : Word, w.getLsbD j = false := fun w => BitVec.getLsbD_of_ge w j (by omega)
    have : j ≠ i := by omega
    simp [h1, this]

/-- The bits of a merge. -/
theorem getLsbD_merge (old new mask : Word) (j : Nat) :
    (merge old new mask).getLsbD j = if mask.getLsbD j then new.getLsbD j else old.getLsbD j := by
  unfold merge
  by_cases hj : j < 64
  · simp only [BitVec.getLsbD_or, BitVec.getLsbD_and, BitVec.getLsbD_not, hj, decide_true, Bool.true_and]
    cases mask.getLsbD j <;> simp
  · have h1 : ∀ w : Word, w.getLsbD j = false := fun w => BitVec.getLsbD_of_ge w j (by omega)
    simp [h1]

end Sys2Proof.Machine
end

