-- ==== Sys2Proof/Laws/Ops.lean ====
section
/-! SUPPORT. What the shared operations do, said once: triggers that cannot fire, the retirement of a register write,
the results of a handler, the checks of an access, and that dispatch always answers a next state. -/

namespace Sys2Proof.Machine

/-! ## Triggers -/

theorem chainScan_nil (f : TrigSlot → Bool) (w : Word) (ts : List TrigSlot) (h : ∀ t ∈ ts, f t = false) (i : Nat)
    (ms : List Nat) (all : Bool) : chainScan f w i ms all ts = [] := by
  induction ts generalizing i ms all with
  | nil => rfl
  | cons t rest ih =>
    have ht : f t = false := h t (by simp)
    have hr : ∀ u ∈ rest, f u = false := fun u hu => h u (List.mem_cons_of_mem _ hu)
    simp only [chainScan, ht, Bool.and_false, Bool.false_eq_true, if_false]
    split <;> exact ih hr _ _ _

/-- No slot set to compare a kind: its evaluation trips nothing and hits nothing. -/
theorem State.triggerEval_quiet {s : State} {k : TrigKind} (h : s.quiet k = true) (v : Word) (tm : Timing) (w : Word) :
    s.triggerEval k v tm w = ([], s) := by
  have hf : ∀ t ∈ s.trig, t.fires k v tm s.priv (s.status mstatusMIE) = false := by
    intro t ht
    have := List.all_eq_true.1 h t ht
    have hq : (trigType t.tdata1 == 2#4 && k.selected t.tdata1) = false := Bool.not_eq_true' _ ▸ this
    simp [TrigSlot.fires, hq]
  simp only [State.triggerEval, chainScan_nil _ w s.trig hf]

@[simp] theorem arbitrate_nil : arbitrate [] = none := rfl

/-- An evaluation that trips nothing changes nothing. -/
theorem State.triggerEval_none {s : State} {k : TrigKind} {v : Word} {tm : Timing} {w : Word}
    (h : (s.triggerEval k v tm w).1 = []) : s.triggerEval k v tm w = ([], s) := by
  unfold State.triggerEval at h ⊢
  dsimp only at h ⊢
  split
  · rfl
  · rename_i hne
    split at h
    · rename_i he; exact absurd he hne
    · exact absurd (List.map_eq_nil_iff.1 h) hne

/-- The instruction-count scan, slot by slot: it goes down by one where the slot counts, and trips, with trap value 0,
exactly when it reaches 0. -/
theorem icountScan_spec (c : Ctx) (l : List TrigSlot) (i : Nat) :
    (icountScan c i l).2.length = l.length
      ∧ (∀ tr ∈ (icountScan c i l).1, i ≤ tr.slot ∧ tr.slot < i + l.length ∧ tr.tval = 0#64)
      ∧ ∀ (j : Nat) (t : TrigSlot), l[j]? = some t →
        (t.counts c (i + j) = false →
          (icountScan c i l).2[j]? = some t ∧ ∀ tr ∈ (icountScan c i l).1, tr.slot ≠ i + j)
        ∧ (t.counts c (i + j) = true → (icountScan c i l).2[j]? = some t.countDown
          ∧ ((∃ tr ∈ (icountScan c i l).1, tr.slot = i + j) ↔ icountOf t.countDown.tdata1 = 0#14)
          ∧ ∀ tr ∈ (icountScan c i l).1, tr.slot = i + j → tr.debug = icountDebug t.tdata1) := by
  induction l generalizing i with
  | nil => simp [icountScan]
  | cons t rest ih =>
    obtain ⟨h1, h2, h3⟩ := ih (i + 1)
    have hne : ∀ tr ∈ (icountScan c (i + 1) rest).1, tr.slot ≠ i := fun tr h => by
      have := (h2 tr h).1
      omega
    refine ⟨?_, ?_, ?_⟩
    · simp only [icountScan]
      split <;> simp [h1]
    · intro tr h
      have old (h : tr ∈ (icountScan c (i + 1) rest).1) :
          i ≤ tr.slot ∧ tr.slot < i + (t :: rest).length ∧ tr.tval = 0#64 := by
        have := h2 tr h
        simp only [List.length_cons]
        exact ⟨by omega, by omega, this.2.2⟩
      simp only [icountScan] at h
      split at h
      · split at h
        · rcases List.mem_cons.1 h with h | h
          · subst h
            simp
          · exact old h
        · exact old h
      · exact old h
    · intro j u hj
      cases j with
      | zero =>
        simp only [List.getElem?_cons_zero, Option.some.injEq] at hj
        subst hj
        simp only [icountScan, Nat.add_zero]
        refine ⟨fun h => ?_, fun h => ?_⟩
        · simp only [h]
          exact ⟨rfl, hne⟩
        · rw [if_pos h]
          refine ⟨rfl, ?_, fun tr ht e => ?_⟩
          · split
            · rename_i hz
              simp [hz]
            · rename_i hz
              simp only [hz, iff_false]
              rintro ⟨tr, h, e⟩
              exact hne tr h e
          · dsimp only at ht
            split at ht
            · rcases List.mem_cons.1 ht with h | h
              · subst h
                rfl
              · exact absurd e (hne tr h)
            · exact absurd e (hne tr ht)
      | succ j =>
        have hr := h3 j u (by simpa using hj)
        rw [show i + 1 + j = i + (j + 1) by omega] at hr
        simp only [icountScan]
        split
        · split
          · refine ⟨fun h => ⟨(hr.1 h).1, fun tr ht => ?_⟩, fun h => ⟨(hr.2 h).1, ?_, fun tr ht => ?_⟩⟩
            · rcases List.mem_cons.1 ht with e | e
              · subst e
                simp
              · exact (hr.1 h).2 tr e
            · rw [← (hr.2 h).2.1]
              simp
            · rcases List.mem_cons.1 ht with e | e
              · subst e
                simp
              · exact (hr.2 h).2.2 tr e
          · exact hr
        · exact hr

theorem lowestTrip_cons (t : Trip) (rest : List Trip) :
    lowestTrip (t :: rest) = some t ∨ ∃ u, lowestTrip rest = some u ∧ lowestTrip (t :: rest) = some u := by
  cases h : lowestTrip rest with
  | none => left; simp [lowestTrip, h]
  | some u =>
    by_cases hs : t.slot ≤ u.slot
    · left; simp [lowestTrip, h, hs]
    · right; exact ⟨u, rfl, by simp [lowestTrip, h, hs]⟩

theorem lowestTrip_eq_none {ts : List Trip} : lowestTrip ts = none ↔ ts = [] := by
  constructor
  · intro h
    cases ts with
    | nil => rfl
    | cons t rest =>
      rcases lowestTrip_cons t rest with e | ⟨u, -, e⟩ <;> rw [e] at h <;> cases h
  · rintro rfl; rfl

/-- The lowest trip is one of them, and none is lower. -/
theorem lowestTrip_spec {ts : List Trip} {t : Trip} (h : lowestTrip ts = some t) :
    t ∈ ts ∧ ∀ u ∈ ts, t.slot ≤ u.slot := by
  induction ts generalizing t with
  | nil => cases h
  | cons a rest ih =>
    simp only [lowestTrip] at h
    cases hr : lowestTrip rest with
    | none =>
      rw [hr] at h
      cases h
      rw [lowestTrip_eq_none.1 hr]
      simp
    | some u =>
      rw [hr] at h
      obtain ⟨hm, hl⟩ := ih hr
      by_cases hs : a.slot ≤ u.slot
      · simp [hs] at h
        subst h
        exact ⟨by simp, fun x hx => by
          rcases List.mem_cons.1 hx with rfl | hx
          · exact le_refl _
          · exact hs.trans (hl x hx)⟩
      · simp [hs] at h
        subst h
        exact ⟨List.mem_cons_of_mem _ hm, fun x hx => by
          rcases List.mem_cons.1 hx with rfl | hx
          · omega
          · exact hl x hx⟩

theorem arbitrate_eq_none {ts : List Trip} : arbitrate ts = none ↔ ts = [] := by
  unfold arbitrate
  cases h : lowestTrip (ts.filter Trip.debug) with
  | none => simpa using lowestTrip_eq_none
  | some t =>
    simp only [reduceCtorEq, false_iff]
    rintro rfl
    cases h

/-! ## Register writes -/

/-- The load queue after a committed register write that is no load. -/
theorem State.commit_writeX_queue (s : State) (len : Nat) (rd : Reg) (v : Word) :
    QueueAfterWrite s (((s.startInstr len).writeX rd v).commit) rd := by
  unfold QueueAfterWrite
  show State.loadQueueAfter _ = _
  unfold State.loadQueueAfter
  have hl : ((s.startInstr len).writeX rd v).ctx.load = none := by simp
  have hw : ((s.startInstr len).writeX rd v).ctx.wroteX = if rd.toNat = 0 then none else some rd := by
    simp [State.writeX]
  simp only [hl, hw, State.writeX_loadQueue, State.startInstr_loadQueue]
  by_cases h : rd = 0#5
  · subst h; rfl
  · simp [toNat_ne_zero h, h, invalidateLoads]

/-- What `retireX` leaves unchanged. -/
theorem State.retireX_same (s : State) (len : Nat) (rd : Reg) (v : Word) :
    SameCore s (s.retireX len rd v) ∧ SameOutside s (s.retireX len rd v) := by
  constructor <;> constructor <;>
    simp [State.retireX, State.commit, State.storeQueueAfter, State.consoleAfter]

/-- A meaning that is `retireX` writes its register and nothing else. -/
theorem writesReg_of_retireX {i : Instr} {s : State} {len : Nat} {rd : Reg} {v : Word}
    (h : exec i s = .next (s.retireX len rd v)) : WritesReg i s len rd v :=
  ⟨_, h, rfl, by simp [State.retireX], fun q => by
    rw [State.retireX, State.readX_commit, State.readX_writeX, State.readX_startInstr],
    s.commit_writeX_queue len rd v, (s.retireX_same len rd v).1, (s.retireX_same len rd v).2⟩

/-- A committed instruction that wrote nothing only moves on. -/
theorem onlyMovesOn_of_commit {i : Instr} {s : State} {len : Nat} (h : exec i s = .next (s.startInstr len).commit) :
    OnlyMovesOn i s len := by
  refine ⟨_, h, rfl, rfl, rfl, rfl, ?_, ?_⟩ <;> constructor <;> rfl

/-! ## What a handler's result becomes -/

/-- A handler that completes with no after-timing trip commits. -/
theorem State.finish_ok {s0 s : State} (h : s.ctx.afterTrips = []) : s0.finish (.ok s) = s.commit := by
  simp [State.finish, h]

theorem State.finish_raise (s0 s : State) (e : Exc) (tv : Word) :
    s0.finish (.raise e tv s) = (s0.undo s).takeTrap (.exception e tv s0.pc) := rfl

theorem State.finish_trip (s0 s : State) (t : Trip) :
    s0.finish (.trip t s) = (s0.undo s).triggerAction t s0.pc := rfl

theorem State.finish_debug (s0 s : State) (c : DebugCause) :
    s0.finish (.debug c s) = (s0.undo s).enterDebug c s0.pc := rfl

@[simp] theorem State.takeTrap_retired (s : State) (e : TrapEvent) : (s.takeTrap e).ctx.retired = s.ctx.retired := by
  unfold State.takeTrap; split <;> simp [State.noteTrap]

@[simp] theorem State.takeTrap_exceptionTaken (s : State) (e : TrapEvent) :
    (s.takeTrap e).ctx.exceptionTaken = e.taken := by
  unfold State.takeTrap; split <;> simp [State.noteTrap]

@[simp] theorem State.undo_retired (s0 s : State) : (s0.undo s).ctx.retired = false := rfl

/-- Taking an exception reads only the configuration, the CSRs, the mode, the pc and the counts. -/
theorem State.takeTrap_exception (s : State) (c : Exc) (tv p : Word) :
    s.takeTrap (.exception c tv p) =
      if s.targetMode (.exception c tv p) = .m
      then (s.enterM (.exception c tv p) (vectorBase s.csr.mtvec)).noteTrap (.exception c tv p)
      else (s.enterS (.exception c tv p)).noteTrap (.exception c tv p) := by
  simp [State.takeTrap, State.afterVector, State.vectorM, State.usesFast, vectorOf]

/-- A handler that raises: the exception is taken in the state as it was, but for the parts an undo does not restore. -/
theorem takesException_of_raise {i : Instr} {s : State} {len : Nat} {c : Exc} {tv : Word} {t : State}
    (h : exec i s = .next ((s.startInstr len).finish (.raise c tv t))) (htr : t.trig = s.trig)
    (hco : t.counts = s.counts) : TakesException i s c tv := by
  refine ⟨_, _, h, rfl, ?_⟩
  rw [State.finish_raise, State.takeTrap_exception, State.takeTrap_exception]
  have hm : ((s.startInstr len).undo t).targetMode (.exception c tv (s.startInstr len).pc)
      = s.targetMode (.exception c tv s.pc) := rfl
  rw [hm]
  split
  · refine ⟨rfl, rfl, rfl, ?_, rfl, rfl, rfl, rfl, htr, rfl, ?_, ?_⟩
    · simp [State.noteTrap, hco, TrapEvent.key, State.undo]
    · constructor <;> rfl
    · constructor <;> rfl
  · refine ⟨rfl, rfl, rfl, ?_, rfl, rfl, rfl, rfl, htr, rfl, ?_, ?_⟩
    · simp [State.noteTrap, hco, TrapEvent.key, State.undo]
    · constructor <;> rfl
    · constructor <;> rfl

/-! ## Dispatch -/

/-- Every instruction answers a next state: no meaning faults or refuses. -/
theorem exec_next (i : Instr) (s : State) : ∃ t, exec i s = .next t := by
  cases i <;> exact ⟨_, rfl⟩

/-! ## The checks of an access do not look at the step context -/

section
variable (s : State) (c : Ctx)

theorem State.pmpScan_ctx (acc : Acc) (p : Priv) (lo hi fuel i : Nat) :
    State.pmpScan { s with ctx := c } acc p lo hi fuel i = s.pmpScan acc p lo hi fuel i := by
  induction fuel generalizing i with
  | zero => rfl
  | succ n ih =>
    have hr : State.pmpRange { s with ctx := c } i = s.pmpRange i := rfl
    simp only [State.pmpScan, hr]
    split
    · exact ih _
    · split
      · exact ih _
      · rfl

theorem State.pmpAllows_ctx (acc : Acc) (p : Priv) (a : Word) (n : Nat) :
    State.pmpAllows { s with ctx := c } acc p a n = s.pmpAllows acc p a n := by
  simp only [State.pmpAllows]
  rw [State.pmpScan_ctx]

theorem State.translate_ctx (acc : Acc) (p : Priv) (v : Word) :
    State.translate { s with ctx := c } acc p v = s.translate acc p v := rfl

theorem State.locateParts_ctx (acc : Acc) (p : Priv) (ps : List (Word × Nat)) :
    State.locateParts { s with ctx := c } acc p ps = s.locateParts acc p ps := by
  induction ps with
  | nil => rfl
  | cons q t ih =>
    simp only [State.locateParts, State.translate_ctx, State.pmpAllows_ctx, ih]

theorem State.byteBacked_ctx (acc : Acc) : State.byteBacked { s with ctx := c } acc = s.byteBacked acc := rfl

theorem State.accessOk_ctx (acc : Acc) (ps : List Word) :
    State.accessOk { s with ctx := c } acc ps = s.accessOk acc ps := rfl

theorem State.locate_ctx (acc : Acc) (a : Word) (n : Nat) :
    State.locate { s with ctx := c } acc a n = s.locate acc a n := by
  have he : State.effPriv { s with ctx := c } acc = s.effPriv acc := rfl
  simp only [State.locate, State.locateParts_ctx, State.accessOk_ctx, he]
  rfl

theorem State.physByte_ctx : State.physByte { s with ctx := c } = s.physByte := rfl

theorem State.fetchBytes_ctx (b : Word) (n : Nat) :
    State.fetchBytes { s with ctx := c } b n = s.fetchBytes b n := by
  simp only [State.fetchBytes, State.locateParts_ctx, State.accessOk_ctx, State.physByte_ctx]
  rfl

theorem State.fetch_ctx (a : Word) : State.fetch { s with ctx := c } a = s.fetch a := by
  simp only [State.fetch, State.fetchBytes_ctx]

end

theorem State.locate_startInstr (s : State) (len : Nat) (acc : Acc) (a : Word) (n : Nat) :
    (s.startInstr len).locate acc a n = s.locate acc a n := State.locate_ctx s _ acc a n

@[simp] theorem State.physByte_startInstr (s : State) (len : Nat) : (s.startInstr len).physByte = s.physByte := rfl
@[simp] theorem State.quiet_startInstr (s : State) (len : Nat) (k : TrigKind) : (s.startInstr len).quiet k = s.quiet k :=
  rfl

/-! ## The number of bytes an access reaches -/

theorem addrRange_length (a : Word) (n : Nat) : (addrRange a n).length = n := by simp [addrRange]

theorem State.locateParts_length {s : State} {acc : Acc} {p : Priv} {l : List (Word × Nat)} {ps : List Word}
    (h : s.locateParts acc p l = .ok ps) : ps.length = (l.map Prod.snd).sum := by
  induction l generalizing ps with
  | nil => cases h; rfl
  | cons q t ih =>
    simp only [State.locateParts] at h
    split at h
    · cases h
    · split at h
      · split at h
        · rename_i qs hq
          cases h
          simp [addrRange_length, ih hq]
        · cases h
      · cases h

theorem pageParts_sum (a : Word) (n : Nat) : ((pageParts a n).map Prod.snd).sum = n := by
  unfold pageParts
  dsimp only
  split
  · simp
  · simp; omega

/-- An access that passes its checks reaches as many bytes as it has. -/
theorem State.locate_length {s : State} {acc : Acc} {a : Word} {n : Nat} {ps : List Word}
    (h : s.locate acc a n = .ok ps) : ps.length = n := by
  unfold State.locate at h
  split at h
  · cases h
  · split at h
    · cases h
    · rename_i qs hq
      split at h
      · cases h
      · split at h
        · cases h
          rw [State.locateParts_length hq, pageParts_sum]
        · cases h

end Sys2Proof.Machine
end

