-- ==== Sys2Proof/Laws/Csrs.lean ====
section
/-! SUPPORT. What a CSR access checks, what a CSR write records, and the fields of `mstatus` and `dcsr`. -/

namespace Sys2Proof.Machine

/-! ## Access -/

theorem ite_none_eq_none {α : Type} {p : Prop} [Decidable p] {x : Option α} :
    (if p then none else x) = none ↔ p ∨ x = none := by
  split <;> simp [*]

/-- The model's access check is the conditions of R500. -/
theorem State.csrAccess_eq_none {s : State} {n : CsrNum} {w : Bool} : s.csrAccess n w = none ↔ csrDenied s n w := by
  unfold State.csrAccess csrDenied State.counterBlocked
  cases h : s.csrOf n with
  | none => simp
  | some r =>
    simp only [ite_none_eq_none, State.status, mstatusTVM, Bool.and_eq_true, Bool.or_eq_true, decide_eq_true_eq,
      Bool.not_eq_true', beq_iff_eq, bne_iff_ne, reduceCtorEq, or_false, false_or, and_assoc]

/-- An allowed access reaches the implemented CSR of its number. -/
theorem State.csrAccess_eq_some {s : State} {n : CsrNum} {w : Bool} (h : ¬ csrDenied s n w) :
    ∃ r, s.csrAccess n w = some r ∧ s.csrOf n = some r := by
  cases h' : s.csrAccess n w with
  | none => exact absurd (State.csrAccess_eq_none.1 h') h
  | some r =>
    refine ⟨r, rfl, ?_⟩
    unfold State.csrAccess at h'
    split at h'
    · cases h'
    · rename_i q hq
      rw [hq]
      repeat (split at h'; · cases h')
      exact h'

@[simp] theorem State.csrAccess_startInstr (s : State) (len : Nat) (n : CsrNum) (w : Bool) :
    (s.startInstr len).csrAccess n w = s.csrAccess n w := rfl

@[simp] theorem State.csrRead_startInstr (s : State) (len : Nat) (r : Csr) :
    (s.startInstr len).csrRead r = s.csrRead r := by cases r <;> rfl

/-! ## What a CSR write records -/

section
variable (s : State) (r : Csr) (v : Word)

@[simp] theorem State.csrWrite_csr : (s.csrWrite r v).csr = (s.csrStore false r v).csr := rfl
@[simp] theorem State.csrWrite_trig : (s.csrWrite r v).trig = (s.csrStore false r v).trig := rfl
@[simp] theorem State.csrWrite_locked : (s.csrWrite r v).mdseacLocked = (s.csrStore false r v).mdseacLocked := rfl
@[simp] theorem State.csrWrite_nextPc : (s.csrWrite r v).ctx.nextPc = s.ctx.nextPc := by simp [State.csrWrite]
@[simp] theorem State.csrWrite_afterTrips : (s.csrWrite r v).ctx.afterTrips = s.ctx.afterTrips := by
  simp [State.csrWrite]
@[simp] theorem State.csrWrite_wroteX : (s.csrWrite r v).ctx.wroteX = s.ctx.wroteX := by simp [State.csrWrite]
@[simp] theorem State.csrWrite_csrOld : (s.csrWrite r v).ctx.csrOld = s.oldValues r ++ s.ctx.csrOld := by
  simp [State.csrWrite]
@[simp] theorem State.csrWrite_csrWritten : (s.csrWrite r v).ctx.csrWritten = r.num :: s.ctx.csrWritten := by
  simp [State.csrWrite]
@[simp] theorem State.csrWrite_slotWritten :
    (s.csrWrite r v).ctx.slotWritten = if s.writesSlot r v then some s.csr.tselect.toNat else s.ctx.slotWritten := by
  simp [State.csrWrite]
@[simp] theorem State.csrWrite_load : (s.csrWrite r v).ctx.load = s.ctx.load := by simp [State.csrWrite]
@[simp] theorem State.csrWrite_store : (s.csrWrite r v).ctx.store = s.ctx.store := by simp [State.csrWrite]

end

/-! ## Fields -/

/-- The bits of `mstatus` with another MPP. -/
theorem getLsbD_putMpp (v : Word) (p : BitVec 2) (j : Nat) :
    (putMpp v p).getLsbD j = if j = 11 then p.getLsbD 0 else if j = 12 then p.getLsbD 1 else v.getLsbD j := by
  unfold putMpp
  rw [getLsbD_merge]
  by_cases hj : j < 64
  · by_cases h : j = 11
    · subst h; simp [zext]
    · by_cases h' : j = 12
      · subst h'; simp [zext]
      · have : (0x1800#64).getLsbD j = false := by interval_cases j <;> first | rfl | omega
        simp [this, h, h']
  · rw [BitVec.getLsbD_of_ge _ j (by omega), BitVec.getLsbD_of_ge _ j (by omega)]
    have : j ≠ 11 ∧ j ≠ 12 := by omega
    simp [this]

theorem mppOf_putMpp (v : Word) (p : BitVec 2) : mppOf (putMpp v p) = p := by
  apply BitVec.eq_of_getLsbD_eq
  intro i hi
  simp only [mppOf, BitVec.getLsbD_extractLsb', hi, getLsbD_putMpp, decide_true, Bool.true_and]
  interval_cases i <;> simp

theorem modeOf_code (p : Priv) : modeOf p.code = p := by cases p <;> decide

/-- The bits of `dcsr` after a debug entry. -/
theorem getLsbD_dcsrEntry (v : Word) (c : DebugCause) (p : Priv) (j : Nat) :
    (dcsrEntry v c p).getLsbD j = if (3#64).getLsbD j then (zext p.code).getLsbD j
      else if (0x1C0#64).getLsbD j then (zext c.code <<< 6).getLsbD j else v.getLsbD j := by
  unfold dcsrEntry
  rw [getLsbD_merge, getLsbD_merge]

/-- The cause of an interrupt (R86). -/
theorem causeWord_interrupt (i : Irq) : TrapEvent.causeWord (.interrupt i) = BitVec.ofNat 64 (2 ^ 63 + i.code) := by
  cases i <;> decide

end Sys2Proof.Machine
end

