-- ==== Sys2Proof/Laws/LoadStore.lean ====
section
/-! SUPPORT. What the shared load and store operations do when their checks pass and no trigger is set to compare them,
and what a store leaves in memory, byte by byte. -/

namespace Sys2Proof.Machine

/-! ## Bytes of a value -/

theorem leBytes_length (n : Nat) (v : Word) : (leBytes n v).length = n := by
  induction n generalizing v with
  | zero => rfl
  | succ n ih => simp [leBytes, ih]

theorem getElem_leBytes (n : Nat) (v : Word) (k : Nat) (h : k < (leBytes n v).length) :
    (leBytes n v)[k] = v.extractLsb' (8 * k) 8 := by
  induction n generalizing v k with
  | zero => simp [leBytes] at h
  | succ n ih =>
    cases k with
    | zero =>
      simp only [leBytes, List.getElem_cons_zero]
      apply BitVec.eq_of_getLsbD_eq
      intro i hi
      simp [hi]
    | succ k =>
      simp only [leBytes, List.getElem_cons_succ]
      rw [ih]
      apply BitVec.eq_of_getLsbD_eq
      intro i hi
      simp [hi]
      congr 1
      omega

/-- A byte below the width of a store is the register's byte. -/
theorem extractLsb'_lowBytes (n k : Nat) (v : Word) (h : k < n) (h8 : n ≤ 8) :
    (lowBytes n v).extractLsb' (8 * k) 8 = v.extractLsb' (8 * k) 8 := by
  apply BitVec.eq_of_getLsbD_eq
  intro i hi
  have h1 : 8 * k + i < 64 := by omega
  have h2 : 8 * k + i < 8 * n := by omega
  simp [lowBytes, zext, hi, h1, h2]

/-! ## Physical writes -/

/-- A byte of memory outside the written addresses is as before. -/
theorem State.setPhysBytes_read_other {s : State} (hw : s.mem.wf) (ps : List Word) (bs : List Byte) (b : Nat)
    (h : ∀ p ∈ ps, p.toNat ≠ b) : (s.setPhysBytes ps bs).mem.read b = s.mem.read b := by
  induction ps generalizing s bs with
  | nil => cases bs <;> rfl
  | cons p t ih =>
    cases bs with
    | nil => rfl
    | cons v bs =>
      show ((s.setPhysByte p v).setPhysBytes t bs).mem.read b = _
      rw [ih (State.setPhysByte_wf hw p v) bs (fun q hq => h q (by simp [hq]))]
      unfold State.setPhysByte
      split
      · rfl
      · split
        · rfl
        · exact Memory.read_write_other hw (Ne.symm (h p (by simp))) v

/-- A written byte of memory holds the byte written. -/
theorem State.setPhysBytes_read_at {s : State} (hw : s.mem.wf) (ps : List Word) (bs : List Byte) (hn : ps.Nodup)
    (k : Nat) (h : k < ps.length) (hb : k < bs.length) (hc : s.cfg.nonIdempotent ps[k] = false) :
    (s.setPhysBytes ps bs).mem.read ps[k].toNat = bs[k] := by
  induction ps generalizing s bs k with
  | nil => simp at h
  | cons p t ih =>
    cases bs with
    | nil => simp at hb
    | cons v bs =>
      show ((s.setPhysByte p v).setPhysBytes t bs).mem.read _ = _
      cases k with
      | zero =>
        rw [State.setPhysBytes_read_other (State.setPhysByte_wf hw p v)]
        · simp only [List.getElem_cons_zero] at *
          unfold State.setPhysByte
          simp [Config.nonIdempotent] at hc
          simp only [hc]
          exact Memory.read_write_same hw _ _
        · intro q hq e
          have : q = p := BitVec.eq_of_toNat_eq e
          rw [this] at hq
          exact (List.nodup_cons.1 hn).1 hq
      | succ k =>
        exact ih (State.setPhysByte_wf hw p v) bs (List.nodup_cons.1 hn).2 k (by simpa using h) (by simpa using hb)
          (by simpa using hc)

/-- Writes outside the CLINT leave its registers. -/
theorem State.setPhysBytes_clint_same {s : State} (ps : List Word) (bs : List Byte)
    (h : ∀ p ∈ ps, s.cfg.inClint p = false) : (s.setPhysBytes ps bs).clint = s.clint := by
  induction ps generalizing s bs with
  | nil => cases bs <;> rfl
  | cons p t ih =>
    cases bs with
    | nil => rfl
    | cons v bs =>
      show ((s.setPhysByte p v).setPhysBytes t bs).clint = _
      rw [ih]
      · have := h p (by simp)
        unfold State.setPhysByte
        simp only [this]
        simp
        split <;> rfl
      · intro q hq
        simpa using h q (by simp [hq])

/-- The CLINT after physical writes: each byte that lies in its region is stored there, in order. -/
theorem State.setPhysBytes_clint (v : Word) (ps : List Word) (bs : List Byte) (j : Nat) (s : State)
    (hl : bs.length = ps.length) (hk : ∀ k, ∀ h : k < bs.length, bs[k] = v.extractLsb' (8 * (j + k)) 8) :
    (s.setPhysBytes ps bs).clint = (List.range ps.length).foldl (init := s.clint) fun c k =>
      match ps[k]? with
      | some p => if s.cfg.inClint p then c.writeByte (s.cfg.clintOffset p) (v.extractLsb' (8 * (j + k)) 8) else c
      | none => c := by
  induction ps generalizing bs j s with
  | nil => cases bs <;> rfl
  | cons p t ih =>
    cases bs with
    | nil => simp at hl
    | cons b bs =>
      have h0 := hk 0 (by simp)
      simp only [List.getElem_cons_zero, Nat.add_zero] at h0
      have hc : (s.setPhysByte p b).clint
          = if s.cfg.inClint p then s.clint.writeByte (s.cfg.clintOffset p) (v.extractLsb' (8 * j) 8) else s.clint := by
        unfold State.setPhysByte
        rw [← h0]
        split
        · rfl
        · split <;> rfl
      show ((s.setPhysByte p b).setPhysBytes t bs).clint = _
      rw [ih bs (j + 1) (s.setPhysByte p b) (by simpa using hl)]
      · rw [List.length_cons, List.range_succ_eq_map, List.foldl_cons, List.foldl_map, hc, State.setPhysByte_cfg]
        simp only [List.getElem?_cons_zero, Nat.add_zero, List.getElem?_cons_succ]
        congr 1
        funext c k
        rw [show j + 1 + k = j + k.succ by omega]
      · intro k h
        have := hk (k + 1) (by simpa using h)
        simp only [List.getElem_cons_succ] at this
        rw [this, show j + (k + 1) = j + 1 + k by omega]

/-! ## Loads and stores -/

/-- A load that passes its checks, with no load trigger set. -/
theorem State.loadBody_ok {s : State} {n : Nat} {e : LoadExt} {rd : Reg} {a : Word} {ps : List Word}
    (h : s.locate .load a n = .ok ps) (q1 : s.quiet .loadAddr = true) (q2 : s.quiet .loadData = true) :
    s.loadBody n e rd a
      = .ok (((s.touch ps).addAfter []).loadWrite n e rd a (leValue (ps.map s.physByte))) := by
  unfold State.loadBody
  rw [State.triggerEval_quiet q1]
  simp only [arbitrate_nil]
  unfold State.memRead
  rw [h]
  simp only
  unfold State.loadChecks
  have t1 : (s.touch ps).quiet .loadAddr = true := by simpa [State.quiet] using q1
  have t2 : (s.touch ps).quiet .loadData = true := by simpa [State.quiet] using q2
  rw [State.triggerEval_quiet t1]
  simp only
  rw [State.triggerEval_quiet t2]
  rfl

/-- A load whose checks fail. -/
theorem State.loadBody_error {s : State} {n : Nat} {x : LoadExt} {rd : Reg} {a : Word} {e : Exc}
    (h : s.locate .load a n = .error e) (q : s.quiet .loadAddr = true) : s.loadBody n x rd a = .raise e a s := by
  unfold State.loadBody
  rw [State.triggerEval_quiet q]
  simp only [arbitrate_nil]
  unfold State.memRead
  rw [h]

/-- A store that passes its checks, with no store trigger set. -/
theorem State.storeBody_ok {s : State} {n : Nat} {a v : Word} {ps : List Word} (h : s.locate .store a n = .ok ps)
    (q1 : s.quiet .storeAddr = true) (q2 : s.quiet .storeData = true) :
    s.storeBody n a v = .ok ((((s.touch ps).setPhysBytes ps (leBytes n v)).addAfter []).noteStore n a v
      { prior := ps.map s.physByte, phys := ps }) := by
  unfold State.storeBody State.storeChecks
  rw [State.triggerEval_quiet q1]
  simp only
  rw [State.triggerEval_quiet q2]
  simp only [List.append_nil, arbitrate_nil]
  unfold State.memWrite
  rw [h]
  simp only
  have t1 : ((s.touch ps).setPhysBytes ps (leBytes n v)).quiet .storeAddr = true := by simpa [State.quiet] using q1
  have t2 : ((s.touch ps).setPhysBytes ps (leBytes n v)).quiet .storeData = true := by simpa [State.quiet] using q2
  rw [State.triggerEval_quiet t1]
  simp only
  rw [State.triggerEval_quiet t2]
  rfl

/-- A store whose checks fail. -/
theorem State.storeBody_error {s : State} {n : Nat} {a v : Word} {e : Exc} (h : s.locate .store a n = .error e)
    (q1 : s.quiet .storeAddr = true) (q2 : s.quiet .storeData = true) : s.storeBody n a v = .raise e a s := by
  unfold State.storeBody State.storeChecks
  rw [State.triggerEval_quiet q1]
  simp only
  rw [State.triggerEval_quiet q2]
  simp only [List.append_nil, arbitrate_nil]
  unfold State.memWrite
  rw [h]

end Sys2Proof.Machine
end

