-- ==== Sys2Proof/Laws/MultiHart.lean ====
section
/-! SUPPORT. What sharing a CSR, seeing another hart's action, and one action of a system can do. -/

namespace Sys2Proof.Machine

/-! ## Sharing -/

/-- Sharing a CSR changes only the CSR file and the trigger slots. -/
theorem State.shareCsr_frame (r : Csr) (src dst : State) :
    State.shareCsr r src dst
      = { dst with csr := (State.shareCsr r src dst).csr, trig := (State.shareCsr r src dst).trig } := by
  unfold State.shareCsr
  split
  · cases r <;> rfl
  · rfl

@[simp] theorem State.shareCsr_cfg (r : Csr) (src dst : State) : (State.shareCsr r src dst).cfg = dst.cfg := by
  rw [State.shareCsr_frame]

/-- Sharing CSRs changes only the CSR file and the trigger slots. -/
theorem State.shareAll_frame (src : State) (l : List CsrNum) (dst : State) :
    src.shareAll l dst = { dst with csr := (src.shareAll l dst).csr, trig := (src.shareAll l dst).trig } := by
  induction l generalizing dst with
  | nil => rfl
  | cons n l ih =>
    simp only [State.shareAll]
    split
    · rw [ih, State.shareCsr_frame]
    · rw [ih]

@[simp] theorem State.shareAll_nil (src dst : State) : src.shareAll [] dst = dst := rfl

@[simp] theorem State.shareAll_cfg (src : State) (l : List CsrNum) (dst : State) : (src.shareAll l dst).cfg = dst.cfg := by
  rw [State.shareAll_frame]

theorem shareSlots_length (f : TrigSlot → TrigSlot → TrigSlot) (src dst : List TrigSlot) :
    (shareSlots f src dst).length = dst.length := by
  induction src generalizing dst with
  | nil => cases dst <;> rfl
  | cons a as ih =>
    cases dst with
    | nil => rfl
    | cons b bs => simp [shareSlots, ih]

/-! ## What another hart sees -/

/-- Taking another hart's shared values changes only the CSR file and the trigger slots. -/
theorem State.adopt_frame (s h : State) : s.adopt h = { s with csr := (s.adopt h).csr, trig := (s.adopt h).trig } :=
  State.shareAll_frame ..

@[simp] theorem State.adopt_cfg (s h : State) : (s.adopt h).cfg = s.cfg := State.shareAll_cfg ..

/-- Another hart's action reaches a hart through memory, the CLINT, the devices' progress, and shared CSRs. -/
theorem State.see_frame (s : State) (w : List CsrNum) (t u : State) :
    s.see w t u = { s with
      mem := u.mem, clint := u.clint, tick := u.tick, csr := (s.see w t u).csr, trig := (s.see w t u).trig } := by
  unfold State.see
  rw [State.shareAll_frame]

/-- What an action shares is shared, and written or changed. -/
theorem State.mem_sharedNow {s t u : State} {w : List CsrNum} {n : CsrNum} :
    n ∈ s.sharedNow w t u ↔
      n ∈ s.cfg.sharedWith u.cfg ∧ (n ∈ w ∨ ∃ r, Csr.ofNum n = some r ∧ r.changed t u = true) := by
  unfold State.sharedNow
  rw [List.mem_filter]
  cases Csr.ofNum n <;> simp

/-- An action that writes and changes no shared CSR of its hart reaches no CSR of another: a peek, or a call that
fails. -/
theorem State.see_of_unchanged {s t u : State} {w : List CsrNum} (h : s.sharedNow w t u = []) :
    s.see w t u = { s with mem := u.mem, clint := u.clint, tick := u.tick } := by
  unfold State.see
  rw [h, State.shareAll_nil]

/-- A CSR is not changed by an action that leaves the state as it was. -/
@[simp] theorem Csr.changed_self (r : Csr) (s : State) : r.changed s s = false := by
  cases r <;> simp [Csr.changed]

@[simp] theorem State.sharedNow_self (s t : State) : s.sharedNow [] t t = [] :=
  List.eq_nil_iff_forall_not_mem.2 fun n h => by simp [State.mem_sharedNow] at h

@[simp] theorem State.see_cfg (s : State) (w : List CsrNum) (t u : State) : (s.see w t u).cfg = s.cfg := by rw [State.see_frame]
@[simp] theorem State.see_x (s : State) (w : List CsrNum) (t u : State) : (s.see w t u).x = s.x := by rw [State.see_frame]
@[simp] theorem State.see_pc (s : State) (w : List CsrNum) (t u : State) : (s.see w t u).pc = s.pc := by rw [State.see_frame]
@[simp] theorem State.see_priv (s : State) (w : List CsrNum) (t u : State) : (s.see w t u).priv = s.priv := by rw [State.see_frame]
@[simp] theorem State.see_mem (s : State) (w : List CsrNum) (t u : State) : (s.see w t u).mem = u.mem := by rw [State.see_frame]
@[simp] theorem State.see_clint (s : State) (w : List CsrNum) (t u : State) : (s.see w t u).clint = u.clint := by rw [State.see_frame]

/-! ## Reset -/

/-- A reset beside other harts leaves everything as a reset alone does but the CSRs it shares with one of them. -/
theorem State.resetBeside_frame (s : State) (others : List State) :
    s.resetBeside others
      = { s.hostReset with csr := (s.resetBeside others).csr, trig := (s.resetBeside others).trig } := by
  unfold State.resetBeside
  induction others with
  | nil => rfl
  | cons h l ih =>
    rw [List.foldr_cons, State.adopt_frame, ih]

/-- A hart that shares no CSR with another is reset whole. -/
theorem State.resetBeside_alone (s : State) (others : List State)
    (h : ∀ o ∈ others, s.cfg.sharedWith o.cfg = []) : s.resetBeside others = s.hostReset := by
  unfold State.resetBeside
  induction others with
  | nil => rfl
  | cons o l ih =>
    rw [List.foldr_cons, ih fun p hp => h p (.tail _ hp)]
    show o.shareAll (s.cfg.sharedWith o.cfg) s.hostReset = s.hostReset
    rw [h o (.head _), State.shareAll_nil]

theorem State.hostReset_csr (s : State) : s.hostReset.csr = CsrFile.reset s.cfg := rfl

/-! ## One action -/

/-- What an action of a system can be: the acting hart steps, or a call of the host is performed on it; then every
other hart sees the state it is in. -/
theorem System.act_cases {y z : System} {a : SystemAction} (h : y.act a = some z) :
    ∃ s t, y.harts[a.hart]? = some s ∧ y.acted s a = some t ∧ z = y.install a.hart (s.writtenBy a) s t
      ∧ systemAdmitted (y.harts.map State.cfg) = true := by
  unfold System.act at h
  split at h
  · rename_i ha
    split at h
    · cases h
    · rename_i s hs
      split at h
      · rename_i t ht
        cases h
        exact ⟨s, t, hs, ht, rfl, ha⟩
      · cases h
  · cases h

end Sys2Proof.Machine
end

