-- ==== Sys2Proof/Laws/PerInstr.lean ====
section
/-! SUPPORT. Laws made per instruction: one lemma per constructor. Family `F`: the encoding of an instruction is as long
as its width, and its low two bits tell a compressed one (30_encoding R250). -/

namespace Sys2Proof.Laws.F

/-- What the family says of an instruction. -/
def Statement (i : Instr) : Prop :=
  (encode i).length = i.len ∧ (i.bits.extractLsb' 0 2 = 3#2 ↔ i.len = 4)

/-- The low two bits of an encoding that ends in a field of at least two bits are that field's. -/
theorem low_append {n k : Nat} (a : BitVec n) (b : BitVec (k + 2)) :
    (a ++ b).extractLsb' 0 2 = b.extractLsb' 0 2 := by
  apply BitVec.eq_of_getLsbD_eq
  intro i hi
  have : i < k + 2 := by omega
  simp [BitVec.getLsbD_append, hi, this]

/-- A 32-bit instruction: the low two bits are the major opcode's. -/
theorem statement32 {i : Instr} {op : BitVec 7} (h : decide (i.ext = .c) = false)
    (hb : i.bits.extractLsb' 0 2 = op.extractLsb' 0 2) (ho : op.extractLsb' 0 2 = 3#2) : Statement i := by
  have h' : ¬ i.ext = .c := of_decide_eq_false h
  simp [Statement, encode, Instr.len, h', hb, ho]

/-- A compressed instruction: the low two bits are its quadrant's. -/
theorem statement16 {i : Instr} {h : BitVec 16} {q : BitVec 2} (hc : i.ext = .c) (hi : i.bits = half h)
    (hb : h.extractLsb' 0 2 = q) (hq : q ≠ 3#2) : Statement i := by
  have e : i.bits.extractLsb' 0 2 = h.extractLsb' 0 2 := hi ▸ low_append 0#16 h
  simp [Statement, encode, Instr.len, hc, e, hb, hq]

/-- The low two bits of a halfword that ends in a two-bit field. -/
theorem low_quadrant {n : Nat} (a : BitVec n) (q : BitVec 2) : (a ++ q).extractLsb' 0 2 = q := by
  rw [low_append (k := 0)]
  simp

theorem lui (rd : Reg) (imm : BitVec 20) : Statement (.lui rd imm) :=
  statement32 (op := 0x37#7) rfl (low_append _ _) (by decide)
theorem auipc (rd : Reg) (imm : BitVec 20) : Statement (.auipc rd imm) :=
  statement32 (op := 0x17#7) rfl (low_append _ _) (by decide)
theorem jal (rd : Reg) (off : BitVec 21) : Statement (.jal rd off) :=
  statement32 (op := 0x6F#7) rfl (low_append _ _) (by decide)
theorem jalr (rd rs1 : Reg) (imm : BitVec 12) : Statement (.jalr rd rs1 imm) :=
  statement32 (op := 0x67#7) rfl (low_append _ _) (by decide)
theorem beq (rs1 rs2 : Reg) (off : BitVec 13) : Statement (.beq rs1 rs2 off) :=
  statement32 (op := 0x63#7) rfl (low_append _ _) (by decide)
theorem bne (rs1 rs2 : Reg) (off : BitVec 13) : Statement (.bne rs1 rs2 off) :=
  statement32 (op := 0x63#7) rfl (low_append _ _) (by decide)
theorem blt (rs1 rs2 : Reg) (off : BitVec 13) : Statement (.blt rs1 rs2 off) :=
  statement32 (op := 0x63#7) rfl (low_append _ _) (by decide)
theorem bge (rs1 rs2 : Reg) (off : BitVec 13) : Statement (.bge rs1 rs2 off) :=
  statement32 (op := 0x63#7) rfl (low_append _ _) (by decide)
theorem bltu (rs1 rs2 : Reg) (off : BitVec 13) : Statement (.bltu rs1 rs2 off) :=
  statement32 (op := 0x63#7) rfl (low_append _ _) (by decide)
theorem bgeu (rs1 rs2 : Reg) (off : BitVec 13) : Statement (.bgeu rs1 rs2 off) :=
  statement32 (op := 0x63#7) rfl (low_append _ _) (by decide)
theorem lb (rd rs1 : Reg) (imm : BitVec 12) : Statement (.lb rd rs1 imm) :=
  statement32 (op := 0x03#7) rfl (low_append _ _) (by decide)
theorem lh (rd rs1 : Reg) (imm : BitVec 12) : Statement (.lh rd rs1 imm) :=
  statement32 (op := 0x03#7) rfl (low_append _ _) (by decide)
theorem lw (rd rs1 : Reg) (imm : BitVec 12) : Statement (.lw rd rs1 imm) :=
  statement32 (op := 0x03#7) rfl (low_append _ _) (by decide)
theorem ld (rd rs1 : Reg) (imm : BitVec 12) : Statement (.ld rd rs1 imm) :=
  statement32 (op := 0x03#7) rfl (low_append _ _) (by decide)
theorem lbu (rd rs1 : Reg) (imm : BitVec 12) : Statement (.lbu rd rs1 imm) :=
  statement32 (op := 0x03#7) rfl (low_append _ _) (by decide)
theorem lhu (rd rs1 : Reg) (imm : BitVec 12) : Statement (.lhu rd rs1 imm) :=
  statement32 (op := 0x03#7) rfl (low_append _ _) (by decide)
theorem lwu (rd rs1 : Reg) (imm : BitVec 12) : Statement (.lwu rd rs1 imm) :=
  statement32 (op := 0x03#7) rfl (low_append _ _) (by decide)
theorem sb (rs1 rs2 : Reg) (imm : BitVec 12) : Statement (.sb rs1 rs2 imm) :=
  statement32 (op := 0x23#7) rfl (low_append _ _) (by decide)
theorem sh (rs1 rs2 : Reg) (imm : BitVec 12) : Statement (.sh rs1 rs2 imm) :=
  statement32 (op := 0x23#7) rfl (low_append _ _) (by decide)
theorem sw (rs1 rs2 : Reg) (imm : BitVec 12) : Statement (.sw rs1 rs2 imm) :=
  statement32 (op := 0x23#7) rfl (low_append _ _) (by decide)
theorem sd (rs1 rs2 : Reg) (imm : BitVec 12) : Statement (.sd rs1 rs2 imm) :=
  statement32 (op := 0x23#7) rfl (low_append _ _) (by decide)
theorem addi (rd rs1 : Reg) (imm : BitVec 12) : Statement (.addi rd rs1 imm) :=
  statement32 (op := 0x13#7) rfl (low_append _ _) (by decide)
theorem slti (rd rs1 : Reg) (imm : BitVec 12) : Statement (.slti rd rs1 imm) :=
  statement32 (op := 0x13#7) rfl (low_append _ _) (by decide)
theorem sltiu (rd rs1 : Reg) (imm : BitVec 12) : Statement (.sltiu rd rs1 imm) :=
  statement32 (op := 0x13#7) rfl (low_append _ _) (by decide)
theorem xori (rd rs1 : Reg) (imm : BitVec 12) : Statement (.xori rd rs1 imm) :=
  statement32 (op := 0x13#7) rfl (low_append _ _) (by decide)
theorem ori (rd rs1 : Reg) (imm : BitVec 12) : Statement (.ori rd rs1 imm) :=
  statement32 (op := 0x13#7) rfl (low_append _ _) (by decide)
theorem andi (rd rs1 : Reg) (imm : BitVec 12) : Statement (.andi rd rs1 imm) :=
  statement32 (op := 0x13#7) rfl (low_append _ _) (by decide)
theorem slli (rd rs1 : Reg) (shamt : BitVec 6) : Statement (.slli rd rs1 shamt) :=
  statement32 (op := 0x13#7) rfl (low_append _ _) (by decide)
theorem srli (rd rs1 : Reg) (shamt : BitVec 6) : Statement (.srli rd rs1 shamt) :=
  statement32 (op := 0x13#7) rfl (low_append _ _) (by decide)
theorem srai (rd rs1 : Reg) (shamt : BitVec 6) : Statement (.srai rd rs1 shamt) :=
  statement32 (op := 0x13#7) rfl (low_append _ _) (by decide)
theorem add (rd rs1 rs2 : Reg) : Statement (.add rd rs1 rs2) :=
  statement32 (op := 0x33#7) rfl (low_append _ _) (by decide)
theorem sub (rd rs1 rs2 : Reg) : Statement (.sub rd rs1 rs2) :=
  statement32 (op := 0x33#7) rfl (low_append _ _) (by decide)
theorem sll (rd rs1 rs2 : Reg) : Statement (.sll rd rs1 rs2) :=
  statement32 (op := 0x33#7) rfl (low_append _ _) (by decide)
theorem slt (rd rs1 rs2 : Reg) : Statement (.slt rd rs1 rs2) :=
  statement32 (op := 0x33#7) rfl (low_append _ _) (by decide)
theorem sltu (rd rs1 rs2 : Reg) : Statement (.sltu rd rs1 rs2) :=
  statement32 (op := 0x33#7) rfl (low_append _ _) (by decide)
theorem xor (rd rs1 rs2 : Reg) : Statement (.xor rd rs1 rs2) :=
  statement32 (op := 0x33#7) rfl (low_append _ _) (by decide)
theorem srl (rd rs1 rs2 : Reg) : Statement (.srl rd rs1 rs2) :=
  statement32 (op := 0x33#7) rfl (low_append _ _) (by decide)
theorem sra (rd rs1 rs2 : Reg) : Statement (.sra rd rs1 rs2) :=
  statement32 (op := 0x33#7) rfl (low_append _ _) (by decide)
theorem or (rd rs1 rs2 : Reg) : Statement (.or rd rs1 rs2) :=
  statement32 (op := 0x33#7) rfl (low_append _ _) (by decide)
theorem and (rd rs1 rs2 : Reg) : Statement (.and rd rs1 rs2) :=
  statement32 (op := 0x33#7) rfl (low_append _ _) (by decide)
theorem fence (fm pred succ : BitVec 4) : Statement (.fence fm pred succ) :=
  statement32 (op := 0x0F#7) rfl (low_append _ _) (by decide)
theorem fenceI : Statement .fenceI :=
  statement32 (op := 0x0F#7) rfl (low_append _ _) (by decide)
theorem ecall : Statement .ecall :=
  statement32 (op := 0x73#7) rfl rfl (by decide)
theorem ebreak : Statement .ebreak :=
  statement32 (op := 0x73#7) rfl rfl (by decide)
theorem addiw (rd rs1 : Reg) (imm : BitVec 12) : Statement (.addiw rd rs1 imm) :=
  statement32 (op := 0x1B#7) rfl (low_append _ _) (by decide)
theorem slliw (rd rs1 : Reg) (shamt : BitVec 5) : Statement (.slliw rd rs1 shamt) :=
  statement32 (op := 0x1B#7) rfl (low_append _ _) (by decide)
theorem srliw (rd rs1 : Reg) (shamt : BitVec 5) : Statement (.srliw rd rs1 shamt) :=
  statement32 (op := 0x1B#7) rfl (low_append _ _) (by decide)
theorem sraiw (rd rs1 : Reg) (shamt : BitVec 5) : Statement (.sraiw rd rs1 shamt) :=
  statement32 (op := 0x1B#7) rfl (low_append _ _) (by decide)
theorem addw (rd rs1 rs2 : Reg) : Statement (.addw rd rs1 rs2) :=
  statement32 (op := 0x3B#7) rfl (low_append _ _) (by decide)
theorem subw (rd rs1 rs2 : Reg) : Statement (.subw rd rs1 rs2) :=
  statement32 (op := 0x3B#7) rfl (low_append _ _) (by decide)
theorem sllw (rd rs1 rs2 : Reg) : Statement (.sllw rd rs1 rs2) :=
  statement32 (op := 0x3B#7) rfl (low_append _ _) (by decide)
theorem srlw (rd rs1 rs2 : Reg) : Statement (.srlw rd rs1 rs2) :=
  statement32 (op := 0x3B#7) rfl (low_append _ _) (by decide)
theorem sraw (rd rs1 rs2 : Reg) : Statement (.sraw rd rs1 rs2) :=
  statement32 (op := 0x3B#7) rfl (low_append _ _) (by decide)
theorem mul (rd rs1 rs2 : Reg) : Statement (.mul rd rs1 rs2) :=
  statement32 (op := 0x33#7) rfl (low_append _ _) (by decide)
theorem mulh (rd rs1 rs2 : Reg) : Statement (.mulh rd rs1 rs2) :=
  statement32 (op := 0x33#7) rfl (low_append _ _) (by decide)
theorem mulhsu (rd rs1 rs2 : Reg) : Statement (.mulhsu rd rs1 rs2) :=
  statement32 (op := 0x33#7) rfl (low_append _ _) (by decide)
theorem mulhu (rd rs1 rs2 : Reg) : Statement (.mulhu rd rs1 rs2) :=
  statement32 (op := 0x33#7) rfl (low_append _ _) (by decide)
theorem div (rd rs1 rs2 : Reg) : Statement (.div rd rs1 rs2) :=
  statement32 (op := 0x33#7) rfl (low_append _ _) (by decide)
theorem divu (rd rs1 rs2 : Reg) : Statement (.divu rd rs1 rs2) :=
  statement32 (op := 0x33#7) rfl (low_append _ _) (by decide)
theorem rem (rd rs1 rs2 : Reg) : Statement (.rem rd rs1 rs2) :=
  statement32 (op := 0x33#7) rfl (low_append _ _) (by decide)
theorem remu (rd rs1 rs2 : Reg) : Statement (.remu rd rs1 rs2) :=
  statement32 (op := 0x33#7) rfl (low_append _ _) (by decide)
theorem mulw (rd rs1 rs2 : Reg) : Statement (.mulw rd rs1 rs2) :=
  statement32 (op := 0x3B#7) rfl (low_append _ _) (by decide)
theorem divw (rd rs1 rs2 : Reg) : Statement (.divw rd rs1 rs2) :=
  statement32 (op := 0x3B#7) rfl (low_append _ _) (by decide)
theorem divuw (rd rs1 rs2 : Reg) : Statement (.divuw rd rs1 rs2) :=
  statement32 (op := 0x3B#7) rfl (low_append _ _) (by decide)
theorem remw (rd rs1 rs2 : Reg) : Statement (.remw rd rs1 rs2) :=
  statement32 (op := 0x3B#7) rfl (low_append _ _) (by decide)
theorem remuw (rd rs1 rs2 : Reg) : Statement (.remuw rd rs1 rs2) :=
  statement32 (op := 0x3B#7) rfl (low_append _ _) (by decide)
theorem csrrw (rd rs1 : Reg) (csr : CsrNum) : Statement (.csrrw rd rs1 csr) :=
  statement32 (op := 0x73#7) rfl (low_append _ _) (by decide)
theorem csrrs (rd rs1 : Reg) (csr : CsrNum) : Statement (.csrrs rd rs1 csr) :=
  statement32 (op := 0x73#7) rfl (low_append _ _) (by decide)
theorem csrrc (rd rs1 : Reg) (csr : CsrNum) : Statement (.csrrc rd rs1 csr) :=
  statement32 (op := 0x73#7) rfl (low_append _ _) (by decide)
theorem csrrwi (rd : Reg) (uimm : BitVec 5) (csr : CsrNum) : Statement (.csrrwi rd uimm csr) :=
  statement32 (op := 0x73#7) rfl (low_append _ _) (by decide)
theorem csrrsi (rd : Reg) (uimm : BitVec 5) (csr : CsrNum) : Statement (.csrrsi rd uimm csr) :=
  statement32 (op := 0x73#7) rfl (low_append _ _) (by decide)
theorem csrrci (rd : Reg) (uimm : BitVec 5) (csr : CsrNum) : Statement (.csrrci rd uimm csr) :=
  statement32 (op := 0x73#7) rfl (low_append _ _) (by decide)
theorem mret : Statement .mret :=
  statement32 (op := 0x73#7) rfl rfl (by decide)
theorem wfi : Statement .wfi :=
  statement32 (op := 0x73#7) rfl rfl (by decide)
theorem sret : Statement .sret :=
  statement32 (op := 0x73#7) rfl rfl (by decide)
theorem sfenceVma (rs1 rs2 : Reg) : Statement (.sfenceVma rs1 rs2) :=
  statement32 (op := 0x73#7) rfl (low_append _ _) (by decide)
theorem dret : Statement .dret :=
  statement32 (op := 0x73#7) rfl rfl (by decide)
theorem cAddi4spn (rd : CReg) (nzuimm : BitVec 10) : Statement (.cAddi4spn rd nzuimm) :=
  statement16 rfl rfl (low_quadrant _ _) (by decide)
theorem cLw (rd rs1 : CReg) (uimm : BitVec 7) : Statement (.cLw rd rs1 uimm) :=
  statement16 rfl rfl (low_quadrant _ _) (by decide)
theorem cLd (rd rs1 : CReg) (uimm : BitVec 8) : Statement (.cLd rd rs1 uimm) :=
  statement16 rfl rfl (low_quadrant _ _) (by decide)
theorem cSw (rs1 rs2 : CReg) (uimm : BitVec 7) : Statement (.cSw rs1 rs2 uimm) :=
  statement16 rfl rfl (low_quadrant _ _) (by decide)
theorem cSd (rs1 rs2 : CReg) (uimm : BitVec 8) : Statement (.cSd rs1 rs2 uimm) :=
  statement16 rfl rfl (low_quadrant _ _) (by decide)
theorem cNop (imm : BitVec 6) : Statement (.cNop imm) :=
  statement16 rfl rfl (low_quadrant _ _) (by decide)
theorem cAddi (rd : Reg) (imm : BitVec 6) : Statement (.cAddi rd imm) :=
  statement16 rfl rfl (low_quadrant _ _) (by decide)
theorem cAddiw (rd : Reg) (imm : BitVec 6) : Statement (.cAddiw rd imm) :=
  statement16 rfl rfl (low_quadrant _ _) (by decide)
theorem cLi (rd : Reg) (imm : BitVec 6) : Statement (.cLi rd imm) :=
  statement16 rfl rfl (low_quadrant _ _) (by decide)
theorem cAddi16sp (nzimm : BitVec 10) : Statement (.cAddi16sp nzimm) :=
  statement16 rfl rfl (low_quadrant _ _) (by decide)
theorem cLui (rd : Reg) (nzimm : BitVec 6) : Statement (.cLui rd nzimm) :=
  statement16 rfl rfl (low_quadrant _ _) (by decide)
theorem cSrli (rd : CReg) (shamt : BitVec 6) : Statement (.cSrli rd shamt) :=
  statement16 rfl rfl (low_quadrant _ _) (by decide)
theorem cSrai (rd : CReg) (shamt : BitVec 6) : Statement (.cSrai rd shamt) :=
  statement16 rfl rfl (low_quadrant _ _) (by decide)
theorem cAndi (rd : CReg) (imm : BitVec 6) : Statement (.cAndi rd imm) :=
  statement16 rfl rfl (low_quadrant _ _) (by decide)
theorem cSub (rd rs2 : CReg) : Statement (.cSub rd rs2) :=
  statement16 rfl rfl (low_quadrant _ _) (by decide)
theorem cXor (rd rs2 : CReg) : Statement (.cXor rd rs2) :=
  statement16 rfl rfl (low_quadrant _ _) (by decide)
theorem cOr (rd rs2 : CReg) : Statement (.cOr rd rs2) :=
  statement16 rfl rfl (low_quadrant _ _) (by decide)
theorem cAnd (rd rs2 : CReg) : Statement (.cAnd rd rs2) :=
  statement16 rfl rfl (low_quadrant _ _) (by decide)
theorem cSubw (rd rs2 : CReg) : Statement (.cSubw rd rs2) :=
  statement16 rfl rfl (low_quadrant _ _) (by decide)
theorem cAddw (rd rs2 : CReg) : Statement (.cAddw rd rs2) :=
  statement16 rfl rfl (low_quadrant _ _) (by decide)
theorem cJ (off : BitVec 12) : Statement (.cJ off) :=
  statement16 rfl rfl (low_quadrant _ _) (by decide)
theorem cBeqz (rs1 : CReg) (off : BitVec 9) : Statement (.cBeqz rs1 off) :=
  statement16 rfl rfl (low_quadrant _ _) (by decide)
theorem cBnez (rs1 : CReg) (off : BitVec 9) : Statement (.cBnez rs1 off) :=
  statement16 rfl rfl (low_quadrant _ _) (by decide)
theorem cSlli (rd : Reg) (shamt : BitVec 6) : Statement (.cSlli rd shamt) :=
  statement16 rfl rfl (low_quadrant _ _) (by decide)
theorem cLwsp (rd : Reg) (uimm : BitVec 8) : Statement (.cLwsp rd uimm) :=
  statement16 rfl rfl (low_quadrant _ _) (by decide)
theorem cLdsp (rd : Reg) (uimm : BitVec 9) : Statement (.cLdsp rd uimm) :=
  statement16 rfl rfl (low_quadrant _ _) (by decide)
theorem cJr (rs1 : Reg) : Statement (.cJr rs1) :=
  statement16 rfl rfl (low_quadrant _ _) (by decide)
theorem cMv (rd rs2 : Reg) : Statement (.cMv rd rs2) :=
  statement16 rfl rfl (low_quadrant _ _) (by decide)
theorem cEbreak : Statement .cEbreak :=
  statement16 rfl rfl rfl (by decide)
theorem cJalr (rs1 : Reg) : Statement (.cJalr rs1) :=
  statement16 rfl rfl (low_quadrant _ _) (by decide)
theorem cAdd (rd rs2 : Reg) : Statement (.cAdd rd rs2) :=
  statement16 rfl rfl (low_quadrant _ _) (by decide)
theorem cSwsp (rs2 : Reg) (uimm : BitVec 8) : Statement (.cSwsp rs2 uimm) :=
  statement16 rfl rfl (low_quadrant _ _) (by decide)
theorem cSdsp (rs2 : Reg) (uimm : BitVec 9) : Statement (.cSdsp rs2 uimm) :=
  statement16 rfl rfl (low_quadrant _ _) (by decide)

end Sys2Proof.Laws.F
end

