-- ==== Sys2Proof/Laws/Step.lean ====
section
/-! SUPPORT. How a step runs: the branch it takes decides its next state, and what the end of a step does after an
instruction that did not retire. -/

namespace Sys2Proof.Machine

/-- The step of a hart that runs, from the state its branch answers. -/
theorem step_of_branch {s t : State} (ha : s.cfg.admitted = true) (hd : s.done = false) (hg : s.debugMode = false)
    (hs : s.cfg.stopAddress ≠ some s.pc) (h : s.beginStep.branchStep = .next t) : step s = .next t.closeStep := by
  simp [step, State.stepAny, State.stepAdmitted, ha, hd, hg, hs, State.runStep, h]

/-- A hart that is done, or halted, does not move. -/
theorem step_idle {s : State} (ha : s.cfg.admitted = true) (h : s.done = true ∨ s.debugMode = true) :
    step s = .next s := by
  rcases h with h | h <;> simp [step, State.stepAny, State.stepAdmitted, ha, h]

@[simp] theorem State.beginStep_pc (s : State) : s.beginStep.pc = s.pc := by simp [State.beginStep]
@[simp] theorem State.beginStep_cfg (s : State) : s.beginStep.cfg = s.cfg := by simp [State.beginStep]
@[simp] theorem State.beginStep_priv (s : State) : s.beginStep.priv = s.priv := by simp [State.beginStep]
@[simp] theorem State.beginStep_x (s : State) : s.beginStep.x = s.x := by simp [State.beginStep]
@[simp] theorem State.beginStep_mem (s : State) : s.beginStep.mem = s.mem := by simp [State.beginStep]
@[simp] theorem State.beginStep_trig (s : State) : s.beginStep.trig = s.trig := by simp [State.beginStep]

/-- Sampling the CLINT changes only `mip`. -/
theorem State.sampleInputs_csr (s : State) : ∃ m, s.sampleInputs.csr = { s.csr with mip := m } := by
  unfold State.sampleInputs
  split <;> exact ⟨_, rfl⟩

/-- The cycle counter is all that the end of an unretired instruction's step changes in the CSRs. -/
theorem State.countCycle_csr (s : State) : ∃ m, s.countCycle.csr = { s.csr with mcycle := m } := by
  unfold State.countCycle
  split <;> exact ⟨_, rfl⟩

/-- A count leaves the step context. -/
theorem State.countCycle_context (s : State) : s.countCycle.ctx = s.ctx := by
  unfold State.countCycle
  split <;> rfl

/-- The end of a step whose instruction did not retire, with no single step pending. -/
theorem State.endStep_unretired {s : State} (h : s.ctx.retired = false) (hs : s.stepPending = false) :
    s.endStep = if s.ctx.attempted then { s.countCycle with execCount := s.countCycle.execCount + 1 }
      else s.countCycle := by
  have hp : s.countCycle.stepPending = false := by unfold State.countCycle; split <;> exact hs
  simp only [State.endStep, State.countCycle_context, h, State.endSingleStep, hp, Bool.false_and,
    Bool.false_eq_true, if_false]

/-- The stop check changes only whether the hart is done. -/
theorem State.stopCheck_eq (s : State) : ∃ d r, s.stopCheck = { s with done := d, stopReason := r } := by
  unfold State.stopCheck
  split <;> exact ⟨_, _, rfl⟩

end Sys2Proof.Machine
end

