-- ==== Sys2Proof/Tests/Slice0.lean ====
section
/-! SUPPORT. Tests of the model: what `wellFormed` refuses, words written out from the spec's encodings, one step of each
instruction on a small state, and for every statement with hypotheses a state and operands that meet them. Expected
values are those of 95_test_vectors (its vector is named) or calculated by hand from the rule named. -/

open Sys2Proof Sys2Proof.Machine

namespace Sys2Proof.Tests

/-! ## Small states -/

/-- Reset, with some registers set. -/
def start (regs : List (Reg × Word)) : State := regs.foldl (fun s p => s.setX p.1 p.2) State.reset

/-- `n` bytes of a value in memory, the least significant first. -/
def State.withBytes (s : State) (a : Word) (n : Nat) (v : Word) : State := s.setPhysBytes (addrRange a n) (leBytes n v)

/-- A state with other CSRs. -/
def State.withCsr (s : State) (f : CsrFile → CsrFile) : State := { s with csr := f s.csr }

/-- One step with an instruction word placed at the pc. -/
def run (s : State) (nbits w : Nat) : State :=
  match step (s.withFetchWord nbits w) with
  | .next t => t
  | .fault _ => s
  | .refused _ => s

/-- The little-endian value of `n` bytes of memory. -/
def bytesAt (s : State) (a : Word) (n : Nat) : Word := leValue ((addrRange a n).map s.physByte)

/-- Every extension the spec admits. -/
def full : Config := { Platform.config with extS := true, extU := true }

/-- Reset of `full`, in a given mode. -/
def inMode (p : Priv) : State := { State.resetWith full with priv := p }

/-- Without compressed instructions, so that targets can be misaligned. -/
def wide : State := State.resetWith { Platform.config with extC := false }

/-! ## Well-formedness: an ill-formed term for each check -/

theorem test_wf_odd_offset_refused : (Instr.jal 1#5 3#21).offsetOk = false ∧ (Instr.jal 1#5 3#21).wellFormed = false := by
  decide
theorem test_wf_unscaled_refused : (Instr.cLd 0#3 0#3 4#8).scaleOk = false ∧ (Instr.cLd 0#3 0#3 4#8).wellFormed = false := by
  decide
theorem test_wf_zero_immediate_refused :
    (Instr.cLui 1#5 0#6).nonzeroOk = false ∧ (Instr.cLui 1#5 0#6).wellFormed = false := by decide
theorem test_wf_register_refused : (Instr.cJr 0#5).regOk = false ∧ (Instr.cJr 0#5).wellFormed = false := by decide

/-! ## Decoding: words written out field by field from 30_encoding -/

theorem test_decode_lui : decodeBits (0x80000#20 ++ 1#5 ++ 0b0110111#7) = some (.lui 1#5 0x80000#20) := by decide
/-- R268: offset[20], offset[10:1], offset[11], offset[19:12]. -/
theorem test_decode_jal :
    decodeBits (0#1 ++ 0b0000001000#10 ++ 1#1 ++ 0b00000010#8 ++ 1#5 ++ 0b1101111#7) = some (.jal 1#5 0x2810#21) := by
  decide
/-- R266: offset[12], offset[10:5], rs2, rs1, funct3, offset[4:1], offset[11]. -/
theorem test_decode_bltu :
    decodeBits (1#1 ++ 0b111111#6 ++ 2#5 ++ 1#5 ++ 0b110#3 ++ 0b1100#4 ++ 1#1 ++ 0b1100011#7)
      = some (.bltu 1#5 2#5 0x1FF8#13) := by decide
theorem test_decode_lwu : decodeBits (0x004#12 ++ 1#5 ++ 0b110#3 ++ 3#5 ++ 0b0000011#7) = some (.lwu 3#5 1#5 4#12) := by
  decide
/-- R265: imm[11:5], rs2, rs1, funct3, imm[4:0]. -/
theorem test_decode_sd :
    decodeBits (0b1111111#7 ++ 2#5 ++ 1#5 ++ 0b011#3 ++ 0b11000#5 ++ 0b0100011#7) = some (.sd 1#5 2#5 0xFF8#12) := by
  decide
theorem test_decode_srai :
    decodeBits (0b010000#6 ++ 63#6 ++ 1#5 ++ 0b101#3 ++ 3#5 ++ 0b0010011#7) = some (.srai 3#5 1#5 63#6) := by decide
theorem test_decode_sraw :
    decodeBits (0b0100000#7 ++ 2#5 ++ 1#5 ++ 0b101#3 ++ 5#5 ++ 0b0111011#7) = some (.sraw 5#5 1#5 2#5) := by decide
theorem test_decode_mulhsu :
    decodeBits (0b0000001#7 ++ 2#5 ++ 1#5 ++ 0b010#3 ++ 5#5 ++ 0b0110011#7) = some (.mulhsu 5#5 1#5 2#5) := by decide
theorem test_decode_csrrci :
    decodeBits (0xC00#12 ++ 3#5 ++ 0b111#3 ++ 4#5 ++ 0b1110011#7) = some (.csrrci 4#5 3#5 0xC00#12) := by decide
theorem test_decode_sfence_vma :
    decodeBits (0b0001001#7 ++ 11#5 ++ 10#5 ++ 0b000#3 ++ 0#5 ++ 0b1110011#7) = some (.sfenceVma 10#5 11#5) := by decide
/-- R270: `c.addi16sp` nzimm[9], then nzimm[4], nzimm[6], nzimm[8:7], nzimm[5]. -/
theorem test_decode_c_addi16sp :
    decodeBits (0#16 ++ 0b011#3 ++ 1#1 ++ 2#5 ++ 0b1#1 ++ 0b0#1 ++ 0b11#2 ++ 0b0#1 ++ 0b01#2)
      = some (.cAddi16sp 0b1110010000#10) := by decide
/-- R270: `c.sdsp` uimm[5:3], uimm[8:6]. -/
theorem test_decode_c_sdsp :
    decodeBits (0#16 ++ 0b111#3 ++ 0b101#3 ++ 0b011#3 ++ 5#5 ++ 0b10#2) = some (.cSdsp 5#5 0b011101000#9) := by decide
/-- R270: `c.j` offset[11], [4], [9:8], [10], [6], [7], [3:1], [5]. -/
theorem test_decode_c_j :
    decodeBits (0#16 ++ 0b101#3 ++ 1#1 ++ 0#1 ++ 0b10#2 ++ 1#1 ++ 1#1 ++ 0#1 ++ 0b101#3 ++ 1#1 ++ 0b01#2)
      = some (.cJ 0b111001101010#12) := by decide
/-- T30-1, T30-2, T30-4, T30-8, T30-12, T30-14, T30-16. -/
theorem test_decode_illegal_words :
    decodeBits 0xFFFFFFFF#32 = none ∧ decodeBits 0x0000001F#32 = none ∧ decodeBits 0x00000004#32 = none
      ∧ decodeBits 0x00004073#32 = none ∧ decodeBits 0x04000033#32 = none ∧ decodeBits 0x0200101B#32 = none
      ∧ decodeBits 0x302000F3#32 = none := by decide
/-- T30-2: refused by name, on bytes too short as well. -/
theorem test_decode_names_its_refusals :
    decode [0x1F#8, 0#8, 0#8, 0#8] = .error .illegalEncoding ∧ decode [0x13#8, 0#8] = .error .truncated
      ∧ decodeWith { Platform.config with extC := false } 0x4505#32 = .error (.disabledExtension .c) := ⟨rfl, rfl, rfl⟩
/-- `c.li x10, 1` (E1), its high halfword absent. -/
theorem test_decode_table_word : decodeTableWord 16 0x4505 = some (.cLi 10#5 1#6) := by decide

/-! ## One step of each instruction -/

/-- T41-1. -/
theorem test_addi :
    let t := run (start [(1#5, 0xFFFFFFFFFFFFFFFB#64)]) 32 0xffd08113
    t.readX 2#5 = 0xFFFFFFFFFFFFFFF8#64 ∧ t.pc = 0x80000004#64 := by decide
/-- T41-2. -/
theorem test_slti :
    let t := run (start [(1#5, 0xFFFFFFFFFFFFFFFF#64)]) 32 0xa113
    t.readX 2#5 = 1#64 := by decide
/-- T41-3. -/
theorem test_sltiu :
    let t := run (State.reset) 32 0xfff03113
    t.readX 2#5 = 1#64 := by decide
/-- T41-4. -/
theorem test_xori :
    let t := run (start [(1#5, 0xFF#64)]) 32 0xfff0c113
    t.readX 2#5 = 0xFFFFFFFFFFFFFF00#64 := by decide
/-- T41-5. -/
theorem test_slli :
    let t := run (start [(1#5, 1#64)]) 32 0x3f09113
    t.readX 2#5 = 0x8000000000000000#64 := by decide
/-- T41-6. -/
theorem test_srli :
    let t := run (start [(1#5, 0x8000000000000000#64)]) 32 0x3f0d113
    t.readX 2#5 = 1#64 := by decide
/-- T41-6. -/
theorem test_srai :
    let t := run (start [(1#5, 0x8000000000000000#64)]) 32 0x43f0d193
    t.readX 3#5 = 0xFFFFFFFFFFFFFFFF#64 := by decide
/-- T41-7. -/
theorem test_add :
    let t := run (start [(1#5, 0x7FFFFFFFFFFFFFFF#64), (2#5, 1#64)]) 32 0x2081b3
    t.readX 3#5 = 0x8000000000000000#64 := by decide
/-- T41-8. -/
theorem test_sub :
    let t := run (start [(1#5, 0#64), (2#5, 1#64)]) 32 0x402081b3
    t.readX 3#5 = 0xFFFFFFFFFFFFFFFF#64 := by decide
/-- T41-9. -/
theorem test_sll :
    let t := run (start [(1#5, 1#64), (2#5, 0x41#64)]) 32 0x2091b3
    t.readX 3#5 = 2#64 := by decide
/-- T41-10. -/
theorem test_slt :
    let t := run (start [(1#5, 0xFFFFFFFFFFFFFFFF#64), (2#5, 1#64)]) 32 0x20a1b3
    t.readX 3#5 = 1#64 := by decide
/-- T41-11. -/
theorem test_sra :
    let t := run (start [(1#5, 0xFFFFFFFFFFFFFFF0#64), (2#5, 2#64)]) 32 0x4020d1b3
    t.readX 3#5 = 0xFFFFFFFFFFFFFFFC#64 := by decide
/-- T41-11. -/
theorem test_srl :
    let t := run (start [(1#5, 0xFFFFFFFFFFFFFFF0#64), (2#5, 2#64)]) 32 0x20d233
    t.readX 4#5 = 0x3FFFFFFFFFFFFFFC#64 := by decide
/-- T41-12. -/
theorem test_lui :
    let t := run (State.reset) 32 0x800000b7
    t.readX 1#5 = 0xFFFFFFFF80000000#64 := by decide
/-- T41-13. -/
theorem test_auipc :
    let t := run (State.reset) 32 0xfffff097
    t.readX 1#5 = 0x7FFFF000#64 := by decide
/-- T41-14. -/
theorem test_addiw :
    let t := run (start [(1#5, 0x7FFFFFFF#64)]) 32 0x10811b
    t.readX 2#5 = 0xFFFFFFFF80000000#64 := by decide
/-- T41-15. -/
theorem test_srliw :
    let t := run (start [(1#5, 0xFFFFFFFF80000000#64)]) 32 0x40d11b
    t.readX 2#5 = 0x8000000#64 := by decide
/-- T41-15. -/
theorem test_sraiw :
    let t := run (start [(1#5, 0xFFFFFFFF80000000#64)]) 32 0x4040d19b
    t.readX 3#5 = 0xFFFFFFFFF8000000#64 := by decide
/-- T41-16. -/
theorem test_slliw :
    let t := run (start [(1#5, 0x100000001#64)]) 32 0x1f0911b
    t.readX 2#5 = 0xFFFFFFFF80000000#64 := by decide
/-- T41-17. -/
theorem test_subw :
    let t := run (start [(1#5, 0x80000000#64), (2#5, 0x80000000#64)]) 32 0x4010023b
    t.readX 4#5 = 0xFFFFFFFF80000000#64 := by decide
/-- T41-18. -/
theorem test_sllw :
    let t := run (start [(1#5, 0xFFFFFFFF#64), (2#5, 0x21#64)]) 32 0x2091bb
    t.readX 3#5 = 0xFFFFFFFFFFFFFFFE#64 := by decide
/-- T41-18. -/
theorem test_srlw :
    let t := run (start [(1#5, 0xFFFFFFFF#64), (2#5, 0x21#64)]) 32 0x20d23b
    t.readX 4#5 = 0x7FFFFFFF#64 := by decide
/-- T41-18. -/
theorem test_sraw :
    let t := run (start [(1#5, 0xFFFFFFFF#64), (2#5, 0x21#64)]) 32 0x4020d2bb
    t.readX 5#5 = 0xFFFFFFFFFFFFFFFF#64 := by decide
/-- T41-20. -/
theorem test_andi :
    let t := run (start [(1#5, 0x1234#64)]) 32 0xf00f113
    t.readX 2#5 = 0x30#64 := by decide
/-- T41-20. -/
theorem test_ori :
    let t := run (start [(1#5, 0x1234#64)]) 32 0x8000e193
    t.readX 3#5 = 0xFFFFFFFFFFFFFA34#64 := by decide
/-- T42-1. -/
theorem test_mul :
    let t := run (start [(1#5, 7#64), (2#5, 6#64)]) 32 0x22081b3
    t.readX 3#5 = 0x2A#64 := by decide
/-- T42-2. -/
theorem test_mulhu :
    let t := run (start [(1#5, 0xFFFFFFFFFFFFFFFF#64), (2#5, 0xFFFFFFFFFFFFFFFF#64)]) 32 0x220b233
    t.readX 4#5 = 0xFFFFFFFFFFFFFFFE#64 := by decide
/-- T42-2. -/
theorem test_mulhsu :
    let t := run (start [(1#5, 0xFFFFFFFFFFFFFFFF#64), (2#5, 0xFFFFFFFFFFFFFFFF#64)]) 32 0x220a2b3
    t.readX 5#5 = 0xFFFFFFFFFFFFFFFF#64 := by decide
/-- T42-3. -/
theorem test_mulh :
    let t := run (start [(1#5, 0x8000000000000000#64), (2#5, 2#64)]) 32 0x22091b3
    t.readX 3#5 = 0xFFFFFFFFFFFFFFFF#64 := by decide
/-- T42-4. -/
theorem test_div :
    let t := run (start [(1#5, 0xFFFFFFFFFFFFFFF9#64), (2#5, 2#64)]) 32 0x220c1b3
    t.readX 3#5 = 0xFFFFFFFFFFFFFFFD#64 := by decide
/-- T42-4. -/
theorem test_rem :
    let t := run (start [(1#5, 0xFFFFFFFFFFFFFFF9#64), (2#5, 2#64)]) 32 0x220e233
    t.readX 4#5 = 0xFFFFFFFFFFFFFFFF#64 := by decide
/-- T42-5. -/
theorem test_divu :
    let t := run (start [(1#5, 0x2A#64), (2#5, 0#64)]) 32 0x220d233
    t.readX 4#5 = 0xFFFFFFFFFFFFFFFF#64 := by decide
/-- T42-5. -/
theorem test_remu :
    let t := run (start [(1#5, 0x2A#64), (2#5, 0#64)]) 32 0x220f333
    t.readX 6#5 = 0x2A#64 := by decide
/-- T42-7. -/
theorem test_divw :
    let t := run (start [(1#5, 0xFFFFFFFF80000000#64), (2#5, 0xFFFFFFFFFFFFFFFF#64)]) 32 0x220c1bb
    t.readX 3#5 = 0xFFFFFFFF80000000#64 := by decide
/-- T42-8. -/
theorem test_divuw :
    let t := run (start [(1#5, 0x100000007#64), (2#5, 0#64)]) 32 0x220d1bb
    t.readX 3#5 = 0xFFFFFFFFFFFFFFFF#64 := by decide
/-- T42-8. -/
theorem test_remuw :
    let t := run (start [(1#5, 0x100000007#64), (2#5, 0#64)]) 32 0x220f23b
    t.readX 4#5 = 7#64 := by decide
/-- T42-8. -/
theorem test_remw :
    let t := run (start [(1#5, 0x100000007#64), (2#5, 0#64)]) 32 0x220e2bb
    t.readX 5#5 = 7#64 := by decide
/-- T43-1. -/
theorem test_jal :
    let t := run (State.reset) 32 0x10000ef
    t.readX 1#5 = 0x80000004#64 ∧ t.pc = 0x80000010#64 := by decide
/-- T43-2. -/
theorem test_jalr :
    let t := run (start [(5#5, 0x80000101#64)]) 32 0x280e7
    t.readX 1#5 = 0x80000004#64 ∧ t.pc = 0x80000100#64 := by decide
/-- T43-4. -/
theorem test_beq :
    let t := run (start [(1#5, 3#64), (2#5, 3#64)]) 32 0xfe208ce3
    t.pc = 0x7FFFFFF8#64 ∧ t.csr.minstret = 1#64 := by decide
/-- T43-6. -/
theorem test_blt :
    let t := run (start [(1#5, 0xFFFFFFFFFFFFFFFF#64), (2#5, 1#64)]) 32 0x20c463
    t.pc = 0x80000008#64 := by decide
/-- T43-7. -/
theorem test_bltu :
    let t := run (start [(1#5, 0xFFFFFFFFFFFFFFFF#64), (2#5, 1#64)]) 32 0x20e463
    t.pc = 0x80000004#64 := by decide
/-- T43-8. -/
theorem test_bge :
    let t := run (start [(1#5, 5#64), (2#5, 5#64)]) 32 0x20d663
    t.pc = 0x8000000C#64 := by decide
/-- T44-1. -/
theorem test_lb :
    let t := run (State.withBytes (start [(1#5, 0x80000100#64)]) 0x80000100#64 8 0x8877665544332281#64) 32 0x8103
    t.readX 2#5 = 0xFFFFFFFFFFFFFF81#64 := by decide
/-- T44-1. -/
theorem test_lbu :
    let t := run (State.withBytes (start [(1#5, 0x80000100#64)]) 0x80000100#64 8 0x8877665544332281#64) 32 0xc183
    t.readX 3#5 = 0x81#64 := by decide
/-- T44-1. -/
theorem test_lh :
    let t := run (State.withBytes (start [(1#5, 0x80000100#64)]) 0x80000100#64 8 0x8877665544332281#64) 32 0x609203
    t.readX 4#5 = 0xFFFFFFFFFFFF8877#64 := by decide
/-- T44-1. -/
theorem test_lhu :
    let t := run (State.withBytes (start [(1#5, 0x80000100#64)]) 0x80000100#64 8 0x8877665544332281#64) 32 0x60d283
    t.readX 5#5 = 0x8877#64 := by decide
/-- T44-2. -/
theorem test_lwu :
    let t := run (State.withBytes (start [(1#5, 0x80000100#64)]) 0x80000100#64 8 0x8877665544332281#64) 32 0x40e183
    t.readX 3#5 = 0x88776655#64 := by decide
/-- T44-2. -/
theorem test_ld :
    let t := run (State.withBytes (start [(1#5, 0x80000100#64)]) 0x80000100#64 8 0x8877665544332281#64) 32 0xb203
    t.readX 4#5 = 0x8877665544332281#64 := by decide
/-- T44-3. -/
theorem test_sd :
    let t := run (start [(1#5, 0x80000200#64), (2#5, 0x1122334455667788#64)]) 32 0x20b023
    bytesAt t 0x80000200#64 8 = 0x1122334455667788#64 := by decide
/-- T44-10. -/
theorem test_sh :
    let t := run (start [(1#5, 0x80000300#64), (2#5, 0xFFFFFFFFFFFFFFFE#64)]) 32 0xfe209f23
    bytesAt t 0x800002FE#64 2 = 0xFFFE#64 := by decide
/-- T45-1. -/
theorem test_csrrw :
    let t := run (State.withCsr (start [(1#5, 0xABCD#64)]) fun c => { c with mscratch := 0x1234#64 }) 32 0x34009173
    t.readX 2#5 = 0x1234#64 ∧ t.csr.mscratch = 0xABCD#64 := by decide
/-- T45-2. -/
theorem test_csrrs :
    let t := run (start [(1#5, 8#64)]) 32 0x3000a173
    t.readX 2#5 = 0x1800#64 := by decide
/-- T46-1. -/
theorem test_ecall :
    let t := run (State.withCsr (State.reset) fun c => { c with mtvec := 0x80000400#64, mstatus := 0x1808#64 }) 32 0x73
    t.pc = 0x80000400#64 ∧ t.csr.mcause = 0xB#64 ∧ t.csr.mepc = 0x80000000#64 ∧ t.csr.mstatus = 0x1880#64 := by decide
/-- T46-2. -/
theorem test_ebreak :
    let t := run (State.withCsr (State.reset) fun c => { c with mtvec := 0x80000400#64 }) 32 0x100073
    t.csr.mcause = 3#64 ∧ t.csr.mtval = 0x80000000#64 := by decide
/-- T46-3. -/
theorem test_mret :
    let t := run (State.withCsr (State.reset) fun c => { c with mstatus := 0x1880#64, mepc := 0x80000040#64 }) 32 0x30200073
    t.pc = 0x80000040#64 ∧ t.csr.mstatus = 0x1888#64 := by decide
/-- T46-4. -/
theorem test_wfi :
    let t := run (State.reset) 32 0x10500073
    t.pc = 0x80000004#64 ∧ t.csr.minstret = 1#64 := by decide
/-- T46-5. -/
theorem test_dret :
    let t := run (State.reset) 32 0x7b200073
    t.csr.mcause = 2#64 ∧ t.csr.mtval = 0x7B200073#64 := by decide
/-- T46-6. -/
theorem test_sret :
    let t := run (State.reset) 32 0x10200073
    t.csr.mcause = 2#64 ∧ t.csr.mtval = 0x10200073#64 := by decide
/-- T47-1. -/
theorem test_c_addi :
    let t := run (start [(8#5, 5#64)]) 16 0x1469
    t.readX 8#5 = 0xFFFFFFFFFFFFFFFF#64 := by decide
/-- T47-1. -/
theorem test_c_li :
    let t := run (start [(8#5, 5#64)]) 16 0x44fd
    t.readX 9#5 = 0x1F#64 := by decide
/-- T47-1. -/
theorem test_c_lui :
    let t := run (start [(8#5, 5#64)]) 16 0x657d
    t.readX 10#5 = 0x1F000#64 := by decide
/-- T47-2. -/
theorem test_c_addi16sp :
    let t := run (start [(2#5, 0x80001000#64)]) 16 0x7139
    t.readX 2#5 = 0x80000FC0#64 := by decide
/-- T47-4. -/
theorem test_c_j :
    let t := run (State.reset) 16 0xa005
    t.pc = 0x80000020#64 := by decide
/-- T47-5. -/
theorem test_c_beqz :
    let t := run (start [(8#5, 0#64)]) 16 0xdc75
    t.pc = 0x7FFFFFFC#64 := by decide
/-- T47-6. -/
theorem test_c_jalr :
    let t := run (start [(5#5, 0x80000081#64)]) 16 0x9282
    t.readX 1#5 = 0x80000002#64 ∧ t.pc = 0x80000080#64 := by decide
/-- T47-9. -/
theorem test_c_addw :
    let t := run (start [(8#5, 0x7FFFFFFF#64), (9#5, 1#64)]) 16 0x9c25
    t.readX 8#5 = 0xFFFFFFFF80000000#64 := by decide
/-- T47-10. -/
theorem test_c_srli :
    let t := run (start [(8#5, 0xFFFFFFFFFFFFFF00#64)]) 16 0x9071
    t.readX 8#5 = 0xF#64 := by decide
/-- T47-12. -/
theorem test_c_ebreak :
    let t := run (State.withCsr (State.reset) fun c => { c with mtvec := 0x80000400#64 }) 16 0x9002
    t.csr.mcause = 3#64 ∧ t.csr.mepc = 0x80000000#64 := by decide
/-- T44-2. -/
theorem test_lw :
    let t := run (State.withBytes (start [(1#5, 0x80000100#64)]) 0x80000100#64 8 0x8877665544332281#64) 32 0x0040A103
    t.readX 2#5 = 0xFFFFFFFF88776655#64 := by decide
/-- T44-7. -/
theorem test_lw_access_fault :
    let t := run (start [(1#5, 0x8000FFFE#64)]) 32 0x0000A103
    t.readX 2#5 = 0#64 ∧ t.csr.mcause = 5#64 ∧ t.csr.mtval = 0x8000FFFE#64 := by decide
/-- T44-4. -/
theorem test_ld_misaligned :
    let t := run (State.withBytes (State.withBytes (start [(1#5, 0x80000101#64)]) 0x80000100#64 8 0x99AABBCCDDEEFF00#64) 0x80000108#64 8 0x1122334455667788#64) 32 0x0000B103
    t.readX 2#5 = 0x8899AABBCCDDEEFF#64 := by decide
/-- R471, from T44-3. -/
theorem test_sw :
    let t := run (start [(1#5, 0x80000200#64), (2#5, 0x1122334455667788#64)]) 32 0x0020A423
    bytesAt t 0x80000208#64 8 = 0x55667788#64 := by decide
/-- T44-6. -/
theorem test_sw_access_fault :
    let t := run (start [(1#5, 0x1000#64), (2#5, 7#64)]) 32 0x0020A023
    t.pc = 0#64 ∧ t.csr.mcause = 7#64 ∧ t.csr.mtval = 0x1000#64 := by decide
/-- R472, from T44-3. -/
theorem test_sb :
    let t := run (start [(1#5, 0x80000200#64), (2#5, 0x1122334455667788#64)]) 32 0x00208723
    bytesAt t 0x80000208#64 8 = 0x0088000000000000#64 := by decide
/-- R434, P1. -/
theorem test_bne :
    let t := run (start [(1#5, 1#64)]) 32 0xFE009CE3
    t.pc = 0x7FFFFFF8#64 := by decide
/-- R438, T43-9 with the operands exchanged. -/
theorem test_bgeu :
    let t := run (start [(1#5, 0xFFFFFFFFFFFFFFFF#64)]) 32 0x0020F663
    t.pc = 0x8000000C#64 := by decide
/-- R366. -/
theorem test_sltu :
    let t := run (start [(1#5, 1#64), (2#5, 0xFFFFFFFFFFFFFFFF#64)]) 32 0x0020B233
    t.readX 4#5 = 1#64 := by decide
/-- R367. -/
theorem test_xor :
    let t := run (start [(1#5, 0xFF#64), (2#5, 0x0F#64)]) 32 0x0020C1B3
    t.readX 3#5 = 0xF0#64 := by decide
/-- R370. -/
theorem test_or :
    let t := run (start [(1#5, 0xF0#64), (2#5, 0x0F#64)]) 32 0x0020E1B3
    t.readX 3#5 = 0xFF#64 := by decide
/-- R371. -/
theorem test_and :
    let t := run (start [(1#5, 0xFF#64), (2#5, 0x0F#64)]) 32 0x0020F1B3
    t.readX 3#5 = 0x0F#64 := by decide
/-- R376. -/
theorem test_addw :
    let t := run (start [(1#5, 0x7FFFFFFF#64), (2#5, 1#64)]) 32 0x002081BB
    t.readX 3#5 = 0xFFFFFFFF80000000#64 := by decide
/-- R409. -/
theorem test_mulw :
    let t := run (start [(1#5, 0x10001#64), (2#5, 0x10000#64)]) 32 0x022081BB
    t.readX 3#5 = 0x10000#64 := by decide
/-- T42-5. -/
theorem test_div_by_zero :
    let t := run (start [(1#5, 0x2A#64)]) 32 0x0220C1B3
    t.readX 3#5 = 0xFFFFFFFFFFFFFFFF#64 ∧ t.csr.mcause = 0#64 := by decide
/-- T42-6. -/
theorem test_div_overflow :
    let t := run (start [(1#5, 0x8000000000000000#64), (2#5, 0xFFFFFFFFFFFFFFFF#64)]) 32 0x0220C1B3
    t.readX 3#5 = 0x8000000000000000#64 := by decide
/-- T42-6. -/
theorem test_rem_overflow :
    let t := run (start [(1#5, 0x8000000000000000#64), (2#5, 0xFFFFFFFFFFFFFFFF#64)]) 32 0x0220E233
    t.readX 4#5 = 0#64 := by decide
/-- T44-9. -/
theorem test_fence :
    let t := run (State.reset) 32 0x0FF0000F
    t.pc = 0x80000004#64 ∧ t.csr.minstret = 1#64 := by decide
/-- T44-9. -/
theorem test_fence_i :
    let t := run (State.reset) 32 0x0000100F
    t.pc = 0x80000004#64 ∧ t.csr.minstret = 1#64 := by decide
/-- T45-2. -/
theorem test_csrrc :
    let t := run (State.withCsr (start [(1#5, 8#64)]) fun c => { c with mstatus := 0x1808#64 }) 32 0x3000B1F3
    t.readX 3#5 = 0x1808#64 ∧ t.csr.mstatus = 0x1800#64 := by decide
/-- T45-4. -/
theorem test_csrrw_read_only :
    let t := run (start [(1#5, 5#64)]) 32 0xF1409173
    t.readX 2#5 = 0#64 ∧ t.csr.mcause = 2#64 ∧ t.csr.mtval = 0xF1409173#64 := by decide
/-- T45-3. -/
theorem test_csrrs_read_only :
    let t := run (State.reset) 32 0xF1402173
    t.csr.mcause = 0#64 ∧ t.pc = 0x80000004#64 := by decide
/-- T45-8. -/
theorem test_csrrw_minstret :
    let t := run (start [(5#5, 0x64#64)]) 32 0xB0229073
    t.csr.minstret = 0x64#64 ∧ t.csr.mcycle = 1#64 := by decide
/-- T45-7. -/
theorem test_csrrwi :
    let t := run (State.reset) 32 0x30595073
    t.csr.mtvec = 0x10#64 := by decide
/-- R507. -/
theorem test_csrrsi :
    let t := run (State.reset) 32 0x30046073
    t.csr.mstatus = 0x1808#64 := by decide
/-- T45-11, R723. -/
theorem test_csrrci :
    let t := run (State.withCsr (State.reset) fun c => { c with mcycle := 5#64 }) 32 0xC00071F3
    t.readX 3#5 = 5#64 ∧ t.csr.mcycle = 6#64 := by decide
/-- T47-2. -/
theorem test_c_addi4spn :
    let t := run (start [(2#5, 0x80000FC0#64)]) 16 0x0800
    t.readX 8#5 = 0x80000FD0#64 := by decide
/-- R587. -/
theorem test_c_nop :
    let t := run (State.reset) 16 0x0001
    t.pc = 0x80000002#64 := by decide
/-- R589: 001 1 01000 11111 01 is c.addiw x8, -1. -/
theorem test_c_addiw :
    let t := run (start [(8#5, 0x80000000#64)]) 16 0x347D
    t.readX 8#5 = 0x7FFFFFFF#64 := by decide
/-- T47-10. -/
theorem test_c_srai :
    let t := run (start [(8#5, 0xFFFFFFFFFFFFFF00#64)]) 16 0x8411
    t.readX 8#5 = 0xFFFFFFFFFFFFFFF0#64 := by decide
/-- R595: 100 1 10 000 10000 01 is c.andi x8, -16. -/
theorem test_c_andi :
    let t := run (start [(8#5, 0xFF#64)]) 16 0x9841
    t.readX 8#5 = 0xF0#64 := by decide
/-- T47-8. -/
theorem test_c_sub :
    let t := run (start [(8#5, 0xF0#64), (9#5, 0x3C#64)]) 16 0x8C05
    t.readX 8#5 = 0xB4#64 := by decide
/-- R597, with the word of T47-8. -/
theorem test_c_xor :
    let t := run (start [(8#5, 0xF0#64), (9#5, 0x3C#64)]) 16 0x8CA1
    t.readX 9#5 = 0xCC#64 := by decide
/-- R598, with the word of T47-8. -/
theorem test_c_or :
    let t := run (start [(8#5, 0xF0#64), (9#5, 0x3C#64)]) 16 0x8C45
    t.readX 8#5 = 0xFC#64 := by decide
/-- R599, with the word of T47-8. -/
theorem test_c_and :
    let t := run (start [(8#5, 0xF0#64), (9#5, 0x3C#64)]) 16 0x8CE1
    t.readX 9#5 = 0x30#64 := by decide
/-- R600, with the word of T47-9. -/
theorem test_c_subw :
    let t := run (start [(8#5, 0x7FFFFFFF#64), (9#5, 1#64)]) 16 0x9C81
    t.readX 9#5 = 0xFFFFFFFF80000002#64 := by decide
/-- R604, P4. -/
theorem test_c_bnez :
    let t := run (start [(11#5, 1#64)]) 16 0xFDF5
    t.pc = 0x7FFFFFFC#64 := by decide
/-- R605, with the word of T47-7. -/
theorem test_c_slli :
    let t := run (start [(5#5, 0x13#64)]) 16 0x12F2
    t.readX 5#5 = 0x3000000000000000#64 := by decide
/-- T47-7. -/
theorem test_c_mv :
    let t := run (start [(6#5, 7#64)]) 16 0x829A
    t.readX 5#5 = 7#64 := by decide
/-- T47-7. -/
theorem test_c_add :
    let t := run (start [(5#5, 7#64), (7#5, 9#64)]) 16 0x929E
    t.readX 5#5 = 0x10#64 := by decide
/-- R608. -/
theorem test_c_jr :
    let t := run (start [(5#5, 0x80000081#64)]) 16 0x8282
    t.pc = 0x80000080#64 ∧ t.readX 1#5 = 0#64 := by decide
/-- T47-3. -/
theorem test_c_sw :
    let t := run (start [(8#5, 0x80000100#64), (9#5, 0xFFFFFFFF87654321#64)]) 16 0xC044
    bytesAt t 0x80000100#64 8 = 0x8765432100000000#64 := by decide
/-- T47-3. -/
theorem test_c_lw :
    let t := run (State.withBytes (start [(8#5, 0x80000100#64)]) 0x80000104#64 4 0x87654321#64) 16 0x4048
    t.readX 10#5 = 0xFFFFFFFF87654321#64 := by decide
/-- T47-3. -/
theorem test_c_sd :
    let t := run (start [(8#5, 0x80000100#64), (9#5, 0xFFFFFFFF87654321#64)]) 16 0xE404
    bytesAt t 0x80000108#64 8 = 0xFFFFFFFF87654321#64 := by decide
/-- T47-3. -/
theorem test_c_ld :
    let t := run (State.withBytes (start [(8#5, 0x80000100#64)]) 0x80000108#64 8 0xFFFFFFFF87654321#64) 16 0x640C
    t.readX 11#5 = 0xFFFFFFFF87654321#64 := by decide
/-- T47-13. -/
theorem test_c_sdsp :
    let t := run (start [(2#5, 0x80000800#64), (5#5, 0x55#64)]) 16 0xE416
    bytesAt t 0x80000808#64 8 = 0x55#64 := by decide
/-- T47-13. -/
theorem test_c_ldsp :
    let t := run (State.withBytes (start [(2#5, 0x80000800#64)]) 0x80000808#64 8 0x55#64) 16 0x6322
    t.readX 6#5 = 0x55#64 := by decide
/-- T47-13. -/
theorem test_c_swsp :
    let t := run (start [(2#5, 0x80000800#64), (5#5, 0x55#64)]) 16 0xC816
    bytesAt t 0x80000810#64 4 = 0x55#64 := by decide
/-- T47-13. -/
theorem test_c_lwsp :
    let t := run (State.withBytes (start [(2#5, 0x80000800#64)]) 0x80000810#64 4 0x55#64) 16 0x43C2
    t.readX 7#5 = 0x55#64 := by decide
/-- T41-19. -/
theorem test_x0_discards_a_write :
    let t := run (State.reset) 32 0x00500013
    t.readX 0#5 = 0#64 ∧ t.pc = 0x80000004#64 ∧ t.csr.minstret = 1#64 := by decide
/-- T47-11. -/
theorem test_illegal_halfword :
    let t := run (State.reset) 16 0x0000
    t.csr.mcause = 2#64 ∧ t.csr.mtval = 0#64 ∧ t.pc = 0#64 ∧ t.csr.minstret = 0#64 := by decide
/-- T60-1. -/
theorem test_interrupt_before_instruction :
    let t := run (State.withCsr (State.reset) fun c => { c with mstatus := 0x1808#64, mie := 0x888#64, mip := 0x880#64, mtvec := 0x80000400#64 }) 32 0x00100093
    t.pc = 0x80000400#64 ∧ t.csr.mcause = 0x800000000000000B#64 ∧ t.csr.mstatus = 0x1880#64 ∧ t.readX 1#5 = 0#64 := by decide
/-- T60-4. -/
theorem test_vectored_interrupt :
    let t := run (State.withCsr (State.reset) fun c => { c with mstatus := 0x1808#64, mie := 0x80#64, mip := 0x80#64, mtvec := 0x80000201#64 }) 32 0x00000073
    t.pc = 0x8000021C#64 ∧ t.csr.mcause = 0x8000000000000007#64 ∧ t.csr.mepc = 0x80000000#64 := by decide
/-- T60-5. -/
theorem test_exception_is_never_vectored :
    let t := run (State.withCsr (State.reset) fun c => { c with mie := 0x80#64, mtvec := 0x80000201#64 }) 32 0x00000073
    t.pc = 0x80000200#64 ∧ t.csr.mcause = 0xB#64 := by decide
/-- R556, R203: a request with both operands, from M mode. -/
theorem test_sfence_vma :
    (run ((inMode .m).setX 10#5 7#64) 32 0x12B50073).flushes = [{ vaddr := some 7#64, asid := some 0#64 }] := by decide
/-- T60-6: the NMI wins over the interrupt and the instruction. -/
theorem test_nmi_first :
    let s := State.withCsr State.reset fun c => { c with mstatus := 0x1808#64, mie := 0x888#64, mip := 0x888#64 }
    let t := run (s.requestNmi 0xF0000000#64) 32 0x00000073
    t.pc = 0x100#64 ∧ t.csr.mcause = 0xF0000000#64 ∧ t.csr.mstatus = 0x1880#64 ∧ t.nmiPending = false := by decide
/-- E2: a fetch outside the regions. -/
theorem test_fetch_access_fault :
    let t := run (State.reset.pokePc 0x1000#64) 32 0
    t.csr.mcause = 1#64 ∧ t.csr.mepc = 0x1000#64 ∧ t.csr.mtval = 0x1000#64 ∧ t.csr.mcycle = 1#64 := by decide

/-- R722, R82: a counter of taken transfers counts `jal x0, 8` and not an addition. -/
theorem test_hpm_event :
    let s := State.withCsr (State.resetWith { Platform.config with hpmEvent := .tests [(1#64, .transfers)] }) fun c =>
      { c with mhpmevent := c.mhpmevent.set 0 1#64 }
    (run s 32 0x0080006F).csr.mhpmcounter[0] = 1#64 ∧ (run s 32 0x00500093).csr.mhpmcounter[0] = 0#64 := by decide
/-- R143: the secondary cause of the event. -/
theorem test_secondary_cause :
    let s := State.resetWith { Platform.config with secondaryCause := .byKind [(.exception .ecallM, 5#4)] }
    (run s 32 0x00000073).csr.mscause = 5#64 ∧ (run s 32 0xFFFFFFFF).csr.mscause = 0#64 := by decide
/-- Log 6: a TOR entry whose base is its top matches no byte. -/
theorem test_empty_tor_entry :
    let s := State.withCsr State.reset fun c =>
      { c with pmpcfg0 := 0x8800#64, pmpaddr := (c.pmpaddr.set 0 13#64).set 1 13#64 }
    s.pmpAllows .load .m 48#64 8 = true := by decide

/-! ## Triggers and debug mode -/

/-- Reset with slot 0 set as given. -/
def withSlot (s : State) (t1 t2 : Word) : State := s.updateSlot 0 fun _ => { tdata1 := t1, tdata2 := t2 }

/-- The trigger states of T61 trap to 0x80000400 with interrupts on. -/
def armed : State := State.withCsr State.reset fun c => { c with mstatus := 0x1808#64, mtvec := 0x80000400#64 }

/-- T61-1, at its second instruction. -/
theorem test_execute_trigger :
    let t := run (withSlot (armed.pokePc 0x80000004#64) 0x2000000000000044#64 0x80000004#64) 32 0x00200113
    t.pc = 0x80000400#64 ∧ t.csr.mcause = 3#64 ∧ t.csr.mtval = 0x80000004#64 ∧ t.readX 2#5 = 0#64
      ∧ (t.trig.map fun u => u.tdata1.getLsbD 20) = [true, false, false, false] := by decide
/-- T61-5: the store is performed, then undone. -/
theorem test_store_trigger_after_undoes :
    let s := withSlot (start [(1#5, 0x80000100#64), (2#5, 0x55#64)]) 0x2800000000041042#64 0x80000100#64
    let t := run (State.withBytes s 0x80000100#64 8 0x1111#64) 32 0x0020B023
    t.debugMode = true ∧ t.csr.dpc = 0x80000000#64 ∧ bytesAt t 0x80000100#64 8 = 0x1111#64 ∧ t.csr.minstret = 0#64 := by
  decide
/-- T61-6: `x3` is as before, the trap value is the address. -/
theorem test_load_data_trigger :
    let s := withSlot ((armed.setX 1#5 0x80000100#64).setX 3#5 9#64) 0x20000000000C0041#64 0xABCD#64
    let t := run (State.withBytes s 0x80000100#64 8 0xABCD#64) 32 0x0000B183
    t.readX 3#5 = 9#64 ∧ t.csr.mcause = 3#64 ∧ t.csr.mtval = 0x80000100#64 := by decide
/-- T61-7a: the last address of a NAPOT range but three. -/
theorem test_napot_trigger :
    (run (withSlot (armed.setX 1#5 0x80000104#64) 0x20000000000000C1#64 0x80000103#64) 32 0x0000A183).csr.mtval
      = 0x80000104#64 := by decide
/-- T61-10a: both slots of the chain hold. -/
theorem test_chain_trips :
    let s := (withSlot (armed.setX 1#5 0x80000180#64) 0x2000000000000942#64 0x80000100#64).updateSlot 1 fun _ =>
      { tdata1 := 0x20000000000001C2#64, tdata2 := 0x80000200#64 }
    let t := run s 32 0x00008023
    t.csr.mcause = 3#64 ∧ (t.trig.map fun u => u.tdata1.getLsbD 20) = [true, true, false, false] := by decide
/-- T61-8, at its second step: the instruction retires, then the trap is taken. -/
theorem test_icount :
    let t := run (withSlot armed 0x3000000000000600#64 0#64) 32 0x00200113
    t.readX 2#5 = 2#64 ∧ t.csr.mcause = 3#64 ∧ t.csr.mepc = 0x80000004#64 ∧ t.csr.minstret = 1#64 := by decide
/-- R770, R757: a write of `tdata1` that a `dmode` slot ignores is no write of the trigger: the slot counts. -/
theorem test_icount_ignored_write :
    ((run (withSlot armed 0x3800000000000A00#64 0#64) 32 0x7A109073).trig[0]?.map TrigSlot.tdata1)
      = some 0x3800000000000600#64 := by decide
/-- R853: the slot the instruction itself configures does not count it. -/
theorem test_icount_own_write :
    ((run ((withSlot armed 0#64 0#64).setX 1#5 0x3000000000000A00#64) 32 0x7A109073).trig[0]?.map TrigSlot.tdata1)
      = some 0x3000000000000A00#64 := by decide
/-- T61-12: one instruction after `resume()` with `dcsr.step`. -/
theorem test_single_step :
    let s := State.withCsr { State.reset with debugMode := true } fun c =>
      { c with dpc := 0x80000000#64, dcsr := 0x40000007#64 }
    (s.resume.map fun r =>
      let t := run r 32 0x00100093
      (t.readX 1#5, t.debugMode, t.csr.dpc, t.csr.dcsr.extractLsb' 6 3)) = some (1#64, true, 0x80000004#64, 4#3) := by
  decide
/-- T61-13: the halt request outranks the NMI, which stays pending. -/
theorem test_halt_request_first :
    let t := run (State.reset.requestDebugHalt.requestNmi 0xF0000000#64) 32 0x00100093
    t.debugMode = true ∧ t.csr.dpc = 0x80000000#64 ∧ t.nmiPending = true ∧ t.readX 1#5 = 0#64 := by decide
/-- R758's example: a poke that chains slot 1 fails, one that chains slot 0 succeeds. -/
theorem test_even_odd_chain :
    let s := State.resetWith { Platform.config with triggerEvenOdd := true }
    (State.withCsr s fun c => { c with tselect := 1#64 }).pokeCsr 0x7A1#12 0x2000000000000842#64 = none
      ∧ (s.pokeCsr 0x7A1#12 0x2000000000000842#64).isSome = true := by decide
/-- R756's example (T61-9): an `icount` slot written over an `mcontrol` one. -/
theorem test_trigger_type_change :
    let s := withSlot (start [(5#5, 0x3000000000000201#64)]) 0x27E0000000000100#64 0#64
    (run s 32 0x7A129073).csrRead .tdata1 = 0x3000000000000200#64 := by decide

/-! ## Rollback and what-if -/

/-- T62-1: the wrong tag matches nothing, the right one restores `x2`. -/
theorem test_load_exception :
    let s := State.resetWith { Platform.config with loadQueueEnabled := true }
    let s1 := State.withBytes ((s.setX 1#5 0x80000100#64).setX 2#5 7#64) 0x80000100#64 8 0x99#64
    let t := run (s1.setLoadTag 5#64) 32 0x0000B103
    let u := t.applyLoadException 0x80000100#64 5#64
    t.readX 2#5 = 0x99#64 ∧ (t.applyLoadException 0x80000100#64 4#64).1 = 0 ∧ u.1 = 1 ∧ u.2.readX 2#5 = 7#64
      ∧ u.2.csr.mdseac = 0x80000100#64 ∧ u.2.nmiPending = true := by decide
/-- T62-5, from the state after its first store: the younger byte store is kept. -/
theorem test_store_exception :
    let a : Word := 0x80000100#64
    let e : StoreEntry := { size := 4, addr := a, prior := List.replicate 4 0xAA#8, phys := addrRange a 4, valid := true,
                            wide := false, tag := 0#64 }
    let s := State.withBytes (start [(1#5, a), (3#5, 0x22#64)]) a 8 0xAAAAAAAA00000011#64
    let t := run { s with storeQueue := [e] } 32 0x003080A3
    let u := t.applyStoreException a
    bytesAt t a 8 = 0xAAAAAAAA00002211#64 ∧ u.1 = 1 ∧ bytesAt u.2 a 8 = 0xAAAAAAAAAAAA22AA#64
      ∧ u.2.csr.mdseac = a := by decide
/-- E3-1: the report, and the state after the call. -/
theorem test_what_if_store :
    let s := start [(1#5, 0x80000200#64), (2#5, 0x55#64)]
    let r := s.whatIf 0x80000100#64 0x0020B023#32
    r.1.1 = true ∧ r.1.2.pc = 0x80000104#64 ∧ r.1.2.memory = some (0x80000200#64, 8, 0x55#64)
      ∧ r.1.2.csrs = [(0xB00#12, 1#64), (0xB02#12, 1#64)] ∧ bytesAt r.2 0x80000200#64 8 = 0#64 ∧ r.2.storeQueue = [] := by
  decide
/-- E3-3: an environment call does not retire. -/
theorem test_what_if_ecall :
    let r := (State.withCsr State.reset fun c => { c with mtvec := 0x80000400#64 }).whatIf 0x80000000#64 0x00000073#32
    r.1.1 = false ∧ r.1.2.pc = 0x80000400#64
      ∧ r.1.2.csrs = [(0x341#12, 0x80000000#64), (0x342#12, 11#64), (0xB00#12, 1#64)] := by decide

/-- R786, D8: also the what-if of a halted hart refuses an instruction a debug CSR (`csrrs x1, dcsr, x0`). -/
theorem test_what_if_halted :
    ({ State.reset with debugMode := true }.whatIf 0x80000000#64 0x7B0020F3#32).1.1 = false
      ∧ ({ State.reset with debugMode := true }.whatIf 0x80000000#64 0x340020F3#32).1.1 = true := by decide

/-! ## Witnesses: for every statement with hypotheses, a state and operands that meet them -/

theorem witness_DecodeOfEncode : (Instr.jal 31#5 0x0FFFFE#21).wellFormed = true
    ∧ (Instr.cAddi4spn 7#3 1020#10).wellFormed = true ∧ (Instr.cLui 31#5 63#6).wellFormed = true := by decide
theorem witness_DecodedWords : decodeBits 0x0000FC75#32 = some (.cBnez 0#3 508#9)
    ∧ (Instr.cBnez 0#3 508#9).ext = .c ∧ decodeBits 0xFE208CE3#32 = some (.beq 1#5 2#5 0x1FF8#13)
    ∧ (Instr.beq 1#5 2#5 0x1FF8#13).ext ≠ .c ∧ (0xFE208CE3#32).extractLsb' 0 7 ≠ 0x0F#7 := by decide

/-- A state that is about to fetch `addi x1, x0, 5`. -/
def aboutToAdd : State := State.reset.withFetchWord 32 0x00500093

theorem aboutToAdd_starts : aboutToAdd.StartsInstr :=
  ⟨by decide, by decide, by decide, by decide, by decide, by decide, by decide, by decide, by decide⟩

/-- R293, R294: `c.li x10, 1` is `addi x10, x0, 1` of width 2. -/
theorem test_expansion : decodedInstruction Platform.config 0x4505#32 0x100#64
    = .ok { op := .addi 10#5 0#5 1#12, width := 2, addr := 0x100#64, bits := 0x4505#32 } := rfl
theorem witness_StepRuns : aboutToAdd.StartsInstr ∧ aboutToAdd.beginStep.fetch aboutToAdd.pc = .ok 0x00500093#32 4
    ∧ decodeWith aboutToAdd.cfg 0x00500093#32 = .ok (.addi 1#5 0#5 5#12)
    ∧ ∃ t, exec (.addi 1#5 0#5 5#12) (aboutToAdd.prepared 0x00500093#32) = .next t :=
  ⟨aboutToAdd_starts, by decide, rfl, exec_next _ _⟩
theorem witness_FetchReads : (Instr.addi 1#5 0#5 5#12).wellFormed = true ∧ aboutToAdd.priv = .m
    ∧ aboutToAdd.pmpAllows .fetch aboutToAdd.priv aboutToAdd.pc 2 = true
    ∧ aboutToAdd.pmpAllows .fetch aboutToAdd.priv (aboutToAdd.pc + 2#64) 2 = true
    ∧ ∀ k < 4, let b := aboutToAdd.pc + BitVec.ofNat 64 k
      aboutToAdd.cfg.inClint b = false ∧ aboutToAdd.cfg.isMmr b.toNat = false
        ∧ aboutToAdd.cfg.permitted .fetch b.toNat = true
        ∧ (encode (.addi 1#5 0#5 5#12))[k]? = some (aboutToAdd.mem.read b.toNat) :=
  ⟨by decide, by decide, by decide, by decide, by decide⟩
/-- A user-mode hart about to fetch `addi x1, x0, 5` two bytes into a word, with PMP entry 0 as given. -/
def guarded (cfg : Word) : State :=
  State.withBytes (State.withCsr { inMode .u with pc := 0x80000002#64 } fun c =>
    { c with pmpcfg0 := cfg, pmpaddr := c.pmpaddr.set 0 0x20000000#64 }) 0x80000002#64 4 0x00500093#64
/-- PMP in use: eight executable bytes let both halfwords through, four the first only, and no entry none. -/
theorem witness_FetchUnderPmp :
    (let s := guarded 0x1C#64
     s.pmpAllows .fetch s.priv s.pc 2 = true ∧ s.pmpAllows .fetch s.priv (s.pc + 2#64) 2 = true
        ∧ s.fetch s.pc = .ok 0x00500093#32 4)
    ∧ (let s := guarded 0x14#64
     s.pmpAllows .fetch s.priv s.pc 2 = true ∧ s.pmpAllows .fetch s.priv (s.pc + 2#64) 2 = false
        ∧ s.fetch s.pc = .fault .instrAccess 0x80000004#64)
    ∧ (let s := guarded 0#64
     s.pmpAllows .fetch s.priv s.pc 2 = false ∧ s.fetch s.pc = .fault .instrAccess 0x80000002#64) := by decide
theorem witness_IllegalBits : let s := State.reset.withFetchWord 32 0xFFFFFFFF
    s.beginStep.fetch s.pc = .ok 0xFFFFFFFF#32 4 ∧ decodeWith s.cfg 0xFFFFFFFF#32 = .error .illegalEncoding
      ∧ s.priv = .m ∧ s.stepPending = false ∧ s.StartsInstr :=
  ⟨by decide, rfl, by decide, by decide,
    ⟨by decide, by decide, by decide, by decide, by decide, by decide, by decide, by decide, by decide⟩⟩
theorem witness_AdmittedStep : State.reset.cfg.admitted = true ∧ full.admitted = true := by decide

/-- Every jump form with an aligned target, and with a misaligned one where compressed instructions are off. -/
theorem witness_Jumps : let s := wide.setX 5#5 0x80000082#64
    State.reset.cfg.extC = true ∧ wide.cfg.extC = false
      ∧ (wide.pc + (16#21).signExtend 64).getLsbD 1 = false ∧ (wide.pc + (2#21).signExtend 64).getLsbD 1 = true
      ∧ ((s.readX 5#5 + (2#12).signExtend 64) &&& ~~~1#64).getLsbD 1 = false
      ∧ ((s.readX 5#5 + (0#12).signExtend 64) &&& ~~~1#64).getLsbD 1 = true
      ∧ (wide.pc + (2#12).signExtend 64).getLsbD 1 = true ∧ (s.readX 5#5 &&& ~~~1#64).getLsbD 1 = true := by decide
/-- Each condition at its boundary, taken and not; an aligned and a misaligned target. -/
theorem witness_Branches :
    let s := start [(1#5, 0x8000000000000000#64), (2#5, 0x7FFFFFFFFFFFFFFF#64), (8#5, 1#64)]
    let a := s.readX 1#5; let b := s.readX 2#5
    a = a ∧ a ≠ b ∧ a.toInt < b.toInt ∧ ¬ a.toInt < a.toInt ∧ a.toInt ≤ a.toInt ∧ ¬ b.toInt ≤ a.toInt
      ∧ b.toNat < a.toNat ∧ ¬ a.toNat < a.toNat ∧ a.toNat ≤ a.toNat ∧ ¬ a.toNat ≤ b.toNat
      ∧ s.readX (0b01#2 ++ 0#3) ≠ 0#64 ∧ s.readX (0b01#2 ++ 1#3) = 0#64 ∧ s.cfg.extC = true
      ∧ wide.cfg.extC = false ∧ (wide.pc + (2#13).signExtend 64).getLsbD 1 = true
      ∧ (wide.pc + (4#9).signExtend 64).getLsbD 1 = false := by decide
theorem witness_NoOperations : (inMode .u).cfg.extU = true ∧ (inMode .u).csr.mstatus.getLsbD 21 = false
    ∧ (let s := State.withCsr (inMode .s) fun c => { c with mstatus := c.mstatus ||| 0x200000#64 }
      s.priv ≠ .m ∧ s.cfg.extU = true ∧ s.csr.mstatus.getLsbD 21 = true) := by decide

/-- The last bytes of the region, for every width of a load; no trigger compares them. -/
theorem witness_Loads : State.reset.locate .load 0x8000FFFF#64 1 = .ok [0x8000FFFF#64]
    ∧ State.reset.locate .load 0x8000FFFE#64 2 = .ok (addrRange 0x8000FFFE#64 2)
    ∧ State.reset.locate .load 0x8000FFFC#64 4 = .ok (addrRange 0x8000FFFC#64 4)
    ∧ State.reset.locate .load 0x8000FFF8#64 8 = .ok (addrRange 0x8000FFF8#64 8)
    ∧ State.reset.quiet .loadAddr = true ∧ State.reset.quiet .loadData = true :=
  ⟨rfl, rfl, rfl, rfl, by decide, by decide⟩
/-- A hart with a CLINT at 0. -/
def withClint : State := State.resetWith { Platform.config with clintEnabled := true }

/-- A store that crosses a page, one to a CLINT register, and one at the end of the region. -/
theorem witness_Stores : State.reset.locate .store 0x80000FFE#64 4
      = .ok [0x80000FFE#64, 0x80000FFF#64, 0x80001000#64, 0x80001001#64]
    ∧ [0x80000FFE#64, 0x80000FFF#64, 0x80001000#64, 0x80001001#64].Nodup ∧ State.reset.cfg.nonIdempotent 0x80000FFE#64 = false
    ∧ (∀ p ∈ addrRange 0x80000FFE#64 4, State.reset.cfg.inClint p = false)
    ∧ State.reset.locate .store 0x8000FFFF#64 1 = .ok [0x8000FFFF#64]
    ∧ State.reset.locate .store 0x8000FFFE#64 2 = .ok (addrRange 0x8000FFFE#64 2)
    ∧ State.reset.locate .store 0x8000FFF8#64 8 = .ok (addrRange 0x8000FFF8#64 8)
    ∧ State.reset.quiet .storeAddr = true ∧ State.reset.quiet .storeData = true ∧ State.reset.mem.wf
    ∧ (withClint.locate .store 0x4000#64 8 = .ok (addrRange 0x4000#64 8) ∧ withClint.cfg.inClint 0x4000#64 = true) :=
  ⟨rfl, by decide, by decide, fun _ _ => rfl, rfl, rfl, rfl, by decide, by decide, by decide, rfl, by decide⟩
/-- Just outside the region, for every width. -/
theorem witness_FailedAccesses : (∀ n ∈ [1, 2, 4, 8], State.reset.locate .load 0x80010000#64 n = .error .loadAccess
      ∧ State.reset.locate .store 0x80010000#64 n = .error .storeAccess)
    ∧ State.reset.quiet .loadAddr = true ∧ State.reset.quiet .storeAddr = true ∧ State.reset.quiet .storeData = true := by
  refine ⟨?_, by decide, by decide, by decide⟩
  intro n hn
  simp only [List.mem_cons, List.not_mem_nil, or_false] at hn
  rcases hn with rfl | rfl | rfl | rfl <;> exact ⟨rfl, rfl⟩

/-- A map with a device region. -/
def withDevice : State := State.resetWith { Platform.config with
  regions := [{ base := 0x1000, size := 0x100, readable := true, writable := true, executable := false, kind := .mmr }] }

theorem witness_AccessChecks : (0x80000001#64).toNat % 2 ≠ 0
    ∧ ({ Platform.config with misalignedData := .trap } : Config).misalignedData = .trap
    ∧ State.reset.cfg.misalignedData = .split
    ∧ withDevice.locateParts .load (withDevice.effPriv .load) (pageParts 0x1001#64 2) = .ok [0x1001#64, 0x1002#64]
    ∧ withDevice.cfg.nonIdempotent 0x1001#64 = true
    ∧ (0x80000FF8#64).toNat % 8 = 0
    ∧ State.reset.pmpAllows .load (State.reset.effPriv .load) 0x80000FF8#64 8 = true
    ∧ (State.reset.pmpAllows .load (State.reset.effPriv .load) 0x80000FFC#64 4 = true
      ∧ State.reset.pmpAllows .load (State.reset.effPriv .load) 0x80001000#64 4 = true)
    ∧ (∀ k < 8, let b := 0x80000FFC#64 + BitVec.ofNat 64 k
      State.reset.cfg.inClint b = false ∧ State.reset.cfg.isMmr b.toNat = false
        ∧ State.reset.cfg.permitted .load b.toNat = true)
    ∧ (inMode .u).pmpAllows .load ((inMode .u).effPriv .load) 0x80000FF8#64 8 = false :=
  ⟨by decide, rfl, by decide, rfl, by decide, by decide, by decide, by decide, by decide, by decide⟩
theorem witness_Memory : Memory.wf [(0, 1#8), (2, 255#8)]
    ∧ ∀ a, Memory.read [(0, 1#8), (2, 255#8)] a = Memory.read [(0, 1#8), (2, 255#8)] a := ⟨by decide, fun _ => rfl⟩

/-! ### CSRs -/

theorem csr_allowed_of_some {s : State} {n : CsrNum} {w : Bool} (h : (s.csrAccess n w).isSome = true) :
    ¬ csrDenied s n w := fun d => by rw [State.csrAccess_eq_none.2 d] at h; cases h

theorem witness_CsrAllowed : ¬ csrDenied State.reset 0x340#12 true ∧ ¬ csrDenied State.reset 0xF14#12 ((0#5 : Reg) != 0#5)
    ∧ ¬ csrDenied State.reset 0x300#12 ((31#5 : BitVec 5) != 0#5)
    ∧ (plainMask full .mip = some 0x222#64 ∧ plainMask full (.mhpmcounter 3) = some (BitVec.allOnes 64)
      ∧ plainMask full (.mhpmcounter 4) = some 0#64)
    ∧ (State.reset.selectedSlot = some TrigSlot.reset ∧ trigDmode TrigSlot.reset.tdata1 = false)
    ∧ (withSlot State.reset 0x2800000000001042#64 0#64).selectedSlot = some { tdata1 := 0x2800000000001042#64, tdata2 := 0#64 } :=
  ⟨csr_allowed_of_some (by decide), csr_allowed_of_some (by decide), csr_allowed_of_some (by decide), by decide,
    by decide, by decide⟩
/-- Each condition of R500 alone denies an access. -/
theorem witness_CsrDenied : csrDenied State.reset 0x7C0#12 false ∧ csrDenied State.reset 0x7B0#12 false
    ∧ csrDenied (inMode .s) 0x300#12 false ∧ csrDenied State.reset 0xF14#12 true
    ∧ csrDenied (State.withCsr (inMode .s) fun c => { c with mstatus := c.mstatus ||| 0x100000#64 }) 0x180#12 false
    ∧ csrDenied (inMode .u) 0xC1F#12 false := by
  refine ⟨?_, ?_, ?_, ?_, ?_, ?_⟩ <;> exact State.csrAccess_eq_none.1 (by decide)
theorem witness_StatusWrite : full.extU = true ∧ full.extS = true ∧ (0x1000#64).extractLsb' 11 2 = 2#2
    ∧ (0x1800#64).extractLsb' 11 2 = 3#2 ∧ (0x0800#64).extractLsb' 11 2 = 1#2 ∧ (0#64).extractLsb' 11 2 = 0#2
    ∧ Platform.config.extU = false ∧ mppOf State.reset.csr.mstatus = 3#2 := by decide
/-- Entry 7 locked, entry 6 not; four entries; `pmpaddr14` below a locked TOR entry 15. -/
theorem witness_Pmp :
    let s := State.withCsr State.reset fun c =>
      { c with pmpcfg0 := 0x9F00000000000000#64, pmpcfg2 := 0x8800000000000000#64 }
    (s.csr.pmpcfg0.extractLsb' (8 * 7) 8).getLsbD 7 = true ∧ (s.csr.pmpcfg0.extractLsb' (8 * 6) 8).getLsbD 7 = false
      ∧ s.cfg.pmpEntries = 16 ∧ ({ Platform.config with pmpEntries := 7 } : Config).pmpEntries ≤ 7
      ∧ (s.csr.pmpCfgByte 14).getLsbD 7 = false ∧ (s.csr.pmpCfgByte 15).getLsbD 7 = true
      ∧ (s.csr.pmpCfgByte 15).extractLsb' 3 2 = 1#2 ∧ (s.csr.pmpCfgByte 13).getLsbD 7 = false := by decide
theorem witness_Satp : (0x7000000000000000#64).extractLsb' 60 4 ∉ full.satpModes
    ∧ (0x9000000000000001#64).extractLsb' 60 4 ∈ full.satpModes ∧ full.asidlen ≤ 16 := by decide
/-- A slot with `dmode`, one without, and a value of every type class. -/
theorem witness_TriggerWrite :
    (State.reset.selectedSlot.map fun t => trigDmode t.tdata1) = some false
      ∧ (((withSlot State.reset 0x2800000000001042#64 0#64).selectedSlot).map fun t => trigDmode t.tdata1) = some true
      ∧ State.reset.debugMode = false ∧ trigType 0x2FFFFFFFFFFFFFFF#64 = 2#4 ∧ trigType 0x3000000000000000#64 = 3#4
      ∧ trigType 0x0FFFFFFFFFFFFFFF#64 = 0#4 ∧ trigType 0xF000000000000000#64 = 15#4 := by decide

/-! ### System instructions and traps -/

/-- In every mode, the breakpoint bit off and on. -/
theorem witness_Breakpoints : (State.reset.priv = .m ∧ State.reset.csr.dcsr.getLsbD 15 = false)
    ∧ ((inMode .s).priv = .s ∧ (inMode .s).csr.dcsr.getLsbD 13 = false)
    ∧ ((inMode .u).priv = .u ∧ (inMode .u).csr.dcsr.getLsbD 12 = false)
    ∧ (0x4000B003#64).getLsbD 15 = true ∧ (0x4000B003#64).getLsbD 13 = true ∧ (0x4000B003#64).getLsbD 12 = true := by
  decide
theorem witness_Returns : State.reset.priv = .m ∧ mppOf State.reset.csr.mstatus = Priv.m.code
    ∧ mppOf (putMpp 0#64 1#2) = Priv.s.code ∧ mppOf (putMpp 0#64 0#2) = Priv.u.code ∧ (inMode .s).priv ≠ .m
    ∧ (inMode .s).csr.mstatus.getLsbD 22 = false ∧ (inMode .s).csr.mstatus.getLsbD 20 = false
    ∧ (inMode .u).priv ≠ .m ∧ (inMode .u).priv ≠ .s := by decide
theorem witness_TrapToM : State.reset.targetMode (.exception .ecallM 0#64 0#64) = .m
    ∧ State.reset.targetMode (.interrupt .mei) = .m
    ∧ State.reset.cfg.fastIntEnabled = false := by decide

/-- An interrupt is selected in M mode, and an environment call from M is an event. -/
theorem witness_TargetMode :
    let s := State.withCsr State.reset fun c => { c with mstatus := 0x1808#64, mie := 0x888#64, mip := 0x888#64 }
    s.selectInterrupt = some .mei ∧ s.priv = .m ∧ State.reset.Reserved :=
  ⟨by decide, by decide, by decide, by unfold within; decide, by unfold within; decide, by unfold within; decide,
    by unfold within; decide, by decide, by decide, by unfold within; decide⟩
/-- U mode with every delegable trap delegated. -/
def delegated : State := State.withCsr (inMode .u) fun c => { c with medeleg := 0xB3FF#64, mideleg := 0x222#64 }

theorem witness_TrapToS : delegated.targetMode (.exception .ecallU 0#64 0#64) = .s
    ∧ delegated.targetMode (.interrupt .sti) = .s := by decide
theorem witness_FastInterrupt : let s := State.resetWith { Platform.config with fastIntEnabled := true }
    s.cfg.fastIntEnabled = true ∧ s.targetMode (.interrupt .mei) = .m := by decide
theorem witness_StepStart : State.reset.cfg.admitted = true ∧ State.reset.done = false ∧ State.reset.debugMode = false
    ∧ State.reset.cfg.stopAddress ≠ some State.reset.pc ∧ State.reset.debugHaltPending = false
    ∧ State.reset.stepPending = false ∧ State.reset.nmiPending = false
    ∧ (State.reset.requestNmi 7#64).nmiPending = true ∧ State.reset.requestDebugHalt.debugHaltPending = true := by decide
/-- An interrupt taken in M, one taken in S, and none. -/
theorem witness_Interrupts :
    let s := State.withCsr State.reset fun c => { c with mstatus := 0x1808#64, mie := 0x888#64, mip := 0x888#64 }
    let t := State.withCsr delegated fun c => { c with mie := 0x222#64, mip := 0x222#64 }
    s.beginStep.selectInterrupt = some .mei ∧ t.beginStep.selectInterrupt = some .sei
      ∧ State.reset.selectInterrupt = none ∧ t.cfg.fastIntEnabled = false ∧ t.stepPending = false := by decide
theorem witness_Clint : let s := State.resetWith { Platform.config with clintEnabled := true }
    s.cfg.clintEnabled = true ∧ s.clint.msip[s.cfg.hartId.toNat]? = some false
      ∧ s.clint.mtimecmp[s.cfg.hartId.toNat]? = some 0xFFFFFFFFFFFFFFFF#64 ∧ 0 < s.clint.msip.length
      ∧ State.reset.cfg.clintEnabled = false := by decide
theorem witness_Halted : State.reset.debugMode = false
    ∧ (let s := { State.reset with debugMode := true }
      s.debugMode = true ∧ s.csr.dcsr.extractLsb' 0 2 = Priv.m.code ∧ s.cfg.admitted = true) := by decide
theorem witness_SingleStep : let s := { aboutToAdd with stepPending := true }
    s.stepPending = true ∧ s.cfg.stopAddress ≠ some s.pc ∧ ∃ t, step s = .next t := ⟨rfl, by decide, _, rfl⟩

/-! ### Triggers, whole-machine rules, invariants -/

/-- NAPOT with its lowest zero at bit 0 and at bit 63. -/
theorem witness_Napot : (∀ j < 0, (0#64).getLsbD j = true) ∧ (0#64).getLsbD 0 = false
    ∧ (∀ j < 63, (0x7FFFFFFFFFFFFFFF#64).getLsbD j = true) ∧ (0x7FFFFFFFFFFFFFFF#64).getLsbD 63 = false := by decide
/-- An armed execute slot trips; so a trip exists. -/
theorem witness_Chains :
    ((withSlot armed 0x2000000000000044#64 0x80000004#64).triggerEval .execAddr 0x80000004#64 .before 9#64).1
      = [{ slot := 0, debug := false, tval := 9#64 }] := by decide
/-- A slot whose count is 1, one whose count is 2, one whose count is 0. -/
theorem witness_Icount : let c : Ctx := { startPriv := .m, startMie := true }
    let slot (v : Word) : TrigSlot := { tdata1 := v, tdata2 := 0#64 }
    (slot 0x3000000000000600#64).counts c 0 = true ∧ (slot 0x3000000000000A00#64).counts c 0 = true
      ∧ (slot 0x3000000000000200#64).counts c 0 = false
      ∧ (icountScan c 0 [slot 0x3000000000000600#64, slot 0x3800000000000601#64]).1.map Trip.debug = [false, true] := by
  decide
theorem witness_Unretired : ∃ t, exec .ecall (inMode .u) = .next t ∧ t.ctx.retired = false ∧ t.priv ≠ (inMode .u).priv :=
  ⟨_, rfl, by decide, by decide⟩
theorem witness_PrivilegeByReturn :
    ∃ t, exec .mret (State.withCsr (inMode .m) fun c => { c with mstatus := 0#64 }) = .next t ∧ t.priv ≠ .m :=
  ⟨_, rfl, by decide⟩
theorem witness_UserMode : (inMode .u).priv = .u ∧ ∃ t, exec (.addi 1#5 0#5 5#12) (inMode .u) = .next t
    ∧ t.ctx.retired = true := ⟨by decide, _, rfl, by decide⟩

theorem aboutToAdd_inv : aboutToAdd.Inv :=
  ⟨by decide, by decide, by decide, by decide, by decide, by decide, by decide, by decide, by decide⟩
theorem witness_Invariant : aboutToAdd.Inv ∧ ∃ t, step aboutToAdd = .next t := ⟨aboutToAdd_inv, _, rfl⟩
theorem witness_Fields : aboutToAdd.Inv ∧ aboutToAdd.Reserved ∧ aboutToAdd.Bounded ∧ aboutToAdd.Idle
    ∧ ∃ t, step aboutToAdd = .next t :=
  ⟨aboutToAdd_inv,
    ⟨by decide, by unfold within; decide, by unfold within; decide, by unfold within; decide, by unfold within; decide,
      by decide, by decide, by unfold within; decide⟩,
    ⟨by decide, by decide, by decide, by decide, by decide⟩, ⟨by decide, by decide, by decide⟩, _, rfl⟩
theorem witness_Reset : full.admitted = true ∧ full.stopAddress ≠ some full.resetPc := by decide

/-! ### The host -/

theorem witness_HostAccess : State.reset.csrOf 0x7C0#12 = none ∧ State.reset.csrOf 0x344#12 = some .mip
    ∧ (31 : Nat) ≤ 31 ∧ (31 : Nat) < 32
    ∧ (Csr.hpmcounter 28).present Platform.config = true
    ∧ (let s := State.withCsr (State.resetWith { Platform.config with triggerEvenOdd := true }) fun c =>
        { c with tselect := 1#64 }
      s.cfg.triggerEvenOdd = true ∧ s.csr.tselect.toNat % 2 = 1 ∧ s.csr.tselect.toNat + 1 ≠ s.cfg.numTriggers
        ∧ (0x2000000000000842#64).extractLsb' 60 4 = 2#4 ∧ (0x2000000000000842#64).getLsbD 11 = true)
    ∧ (State.reset.call (.peekX 32)).1 = .failed := by decide
/-- One match, and two. -/
theorem witness_LoadException :
    let e : LoadEntry := { size := 8, addr := 0x80000100#64, rd := 2#5, prior := 7#64, valid := true, wide := false,
                           tag := 5#64 }
    let s := { State.reset with loadQueue := [e] }
    (s.loadQueue.filter fun e => e.addr == 0x80000100#64 && e.tag == 5#64) = [e]
      ∧ (([e, e] : List LoadEntry).filter fun e =>
          e.addr == 0x80000100#64 && e.tag == 5#64).length ≠ 1 := by decide
/-- Two stores that overlap in one byte: the younger one keeps it. -/
theorem witness_StoreException :
    let e : StoreEntry := { size := 2, addr := 0x80000100#64, prior := [1#8, 2#8],
                            phys := [0x80000100#64, 0x80000101#64], valid := true, wide := false, tag := 0#64 }
    let y : StoreEntry := { size := 2, addr := 0x80000101#64, prior := [3#8, 4#8],
                            phys := [0x80000101#64, 0x80000102#64], valid := true, wide := false, tag := 0#64 }
    let s := { State.reset with storeQueue := [] ++ e :: [y, y] }
    (s.storeQueue.filter fun e => e.addr == 0x80000100#64) = [e] ∧ s.storeQueue = [] ++ e :: [y, y] ∧ s.mem.wf
      ∧ e.phys.Nodup ∧ e.phys.length = e.prior.length ∧ (∀ p ∈ e.phys, s.cfg.nonIdempotent p = false)
      ∧ (∀ y' ∈ [y, y], 0x80000100#64 ∉ y'.phys) ∧ (∃ y' ∈ [y, y], 0x80000101#64 ∈ y'.phys)
      ∧ (e.phys[1]? = some 0x80000101#64 ∧ y.phys[0]? = some 0x80000101#64 ∧ (∀ z ∈ [y, y].take 0, 0x80000101#64 ∉ z.phys))
      ∧ 0x80000102#64 ∉ e.phys ∧ (∃ z ∈ [y, y].take 1, 0x80000101#64 ∈ z.phys)
      ∧ (s.storeQueue.filter fun e => e.addr == 0x80000104#64).length ≠ 1 := by
  refine ⟨by decide, rfl, by decide, by decide, rfl, ?_, by decide, by decide, by decide, by decide, by decide, by decide⟩
  intro p hp
  have h : ([0x80000100#64, 0x80000101#64].all fun q => !State.reset.cfg.nonIdempotent q) = true := by decide
  simpa using List.all_eq_true.1 h p hp
/-- Two harts that share `mscratch`, `mtvec` and `tdata1`; hart 1 resets with its own `mtvec`. -/
def pair : List Config :=
  let c := { Platform.config with numHarts := 2, sharedCsrs := [0x340#12, 0x305#12, 0x7A1#12] }
  [c, { c with hartId := 1, mtvecReset := 0x500#64 }]

/-- A field of a hart of a system after some actions. -/
def after (l : List SystemAction) (i : Nat) (f : State → Word) : Option Word :=
  (System.reset pair).bind fun y => (y.run l).bind fun z => z.harts[i]?.map f

/-- R67: a poke on one hart reaches the other through a shared CSR and not through another; log 19: the first hart's
reset value. -/
theorem test_shared_csr :
    after [.host 0 (.pokeCsr 0x340#12 7#64), .host 0 (.pokeCsr 0x341#12 8#64)] 1 (fun s => s.csr.mscratch) = some 7#64
      ∧ after [.host 0 (.pokeCsr 0x341#12 8#64)] 1 (fun s => s.csr.mepc) = some 0#64
      ∧ after [] 1 (fun s => s.csr.mtvec) = some 0#64
      ∧ after [.host 0 (.pokeCsr 0x7A1#12 0x2000000000000044#64)] 1 (fun s => s.csrRead .tdata1)
          = some 0x27E0000000000044#64 := by decide
/-- R831: a reset keeps a CSR another hart shares; alone, a hart resets it. -/
theorem test_reset_and_sharing :
    after [.host 0 (.pokeCsr 0x340#12 7#64), .host 0 .reset] 0 (fun s => s.csr.mscratch) = some 7#64
      ∧ after [.host 0 (.pokeCsr 0x341#12 8#64), .host 0 .reset] 0 (fun s => s.csr.mepc) = some 0#64
      ∧ (State.withCsr (State.resetWith { Platform.config with sharedCsrs := [0x340#12] }) fun c =>
          { c with mscratch := 7#64 }).hostReset.csr.mscratch = 0#64 := by decide
/-- R520: a peek shares nothing; a poke of the shared `sie` is written through, also one that leaves the view of its own
hart as it was. R831, R69: a CSR that the other hart only lists is reset. -/
theorem test_peek_and_listed_only :
    let c := { Platform.config with extS := true, extU := true, numHarts := 2, sharedCsrs := [0x104#12, 0x302#12] }
    let f (l : List SystemAction) (i : Nat) (g : State → Word) : Option Word :=
      (System.reset [c, { c with hartId := 1 }]).bind fun y => (y.run l).bind fun z => z.harts[i]?.map g
    let h (l : List SystemAction) (i : Nat) (g : State → Word) : Option Word :=
      (System.reset [c, { c with hartId := 1, extS := false }]).bind fun y =>
        (y.run l).bind fun z => z.harts[i]?.map g
    let poke := SystemAction.host 1 (.pokeCsr 0x304#12 0x222#64)
    f [.host 0 (.pokeCsr 0x303#12 0x222#64), poke, .host 0 (.peekCsr 0x304#12)] 1 (fun s => s.csr.mie) = some 0x222#64
      ∧ f [.host 0 (.pokeCsr 0x303#12 0x222#64), .host 0 (.pokeCsr 0x104#12 0x20#64)] 1 (fun s => s.csr.mie) = some 0x20#64
      ∧ f [.host 0 (.pokeCsr 0x303#12 0x222#64), .host 0 (.pokeCsr 0x104#12 0x222#64), .host 1 (.pokeCsr 0x303#12 0x222#64)]
          1 (fun s => s.csrRead .sie) = some 0x222#64
      ∧ f [.host 0 (.pokeCsr 0x303#12 0x222#64), .host 0 (.pokeCsr 0x104#12 0x222#64), .host 1 (.pokeCsr 0x304#12 0#64),
          .host 1 (.pokeCsr 0x303#12 0x222#64), .host 1 (.pokeCsr 0x104#12 0#64)] 0 (fun s => s.csrRead .sie) = some 0#64
      ∧ h [.host 0 (.pokeCsr 0x302#12 4#64), .host 0 .reset] 0 (fun s => s.csr.medeleg) = some 0#64 := by decide
/-- R226: a host action and a step, in the order given. -/
theorem test_interleaving :
    after [.host 1 (.pokeMem 0x80000000#64 4 0x00500093#64), .step 0] 0 (fun s => s.readX 1#5) = some 5#64
      ∧ after [.step 0, .host 1 (.pokeMem 0x80000000#64 4 0x00500093#64)] 0 (fun s => s.readX 1#5) = some 0#64 := by
  decide
/-- A step and a call of the host; a CSR shared, and one not. -/
theorem witness_TwoHarts : let y : System := { harts := pair.map State.resetWith }
    (∃ z, y.act (.step 0) = some z) ∧ (∃ z, y.act (.host 0 (.pokeCsr 0x340#12 0#64)) = some z)
      ∧ (∀ s ∈ y.harts, s.writtenBy (.host 0 (.pokeCsr 0x340#12 0#64)) = [0x340#12])
      ∧ (∃ z, y.act (.host 1 (.setTime 5#64)) = some z)
      ∧ (∃ z, y.act (.host 0 .reset) = some z)
      ∧ (∀ c ∈ pair, ∀ d ∈ pair, 0x340#12 ∈ c.sharedWith d ∧ 0x341#12 ∉ c.sharedWith d
        ∧ Csr.mscratch.present c = true)
      ∧ Platform.config.sharedWith Platform.config = [] :=
  ⟨⟨_, rfl⟩, ⟨_, rfl⟩, by decide, ⟨_, rfl⟩, ⟨_, rfl⟩, by decide, rfl⟩

end Sys2Proof.Tests
end

section
/-! Words: changing a word only under a mask, and the alignment of a program counter (10_state R58, R65, R85). -/

namespace Sys2Proof.Machine

/-! ## Changes under a mask -/

/-- Words that agree on every bit outside a mask. -/
theorem and_not_eq_of_bits {a b m : Word} (h : ∀ j, m.getLsbD j = false → a.getLsbD j = b.getLsbD j) :
    a &&& ~~~m = b &&& ~~~m := by
  apply BitVec.eq_of_getLsbD_eq
  intro j hj
  cases hm : m.getLsbD j with
  | true => simp [hm]
  | false => simp [hm, h j hm]

theorem within.getLsbD {v m : Word} (h : within v m) {j : Nat} (hj : m.getLsbD j = false) : v.getLsbD j = false := by
  by_cases hlt : j < 64
  · have hb : (v &&& ~~~m).getLsbD j = false := by rw [h]; exact BitVec.getLsbD_zero
    rwa [BitVec.getLsbD_and, BitVec.getLsbD_not, hj, decide_eq_true hlt, Bool.not_false, Bool.and_true,
      Bool.and_true] at hb
  · exact BitVec.getLsbD_of_ge v j (by omega)

theorem within_and {k m : Word} (v : Word) (h : within k m) : within (v &&& k) m := by
  unfold within at *
  rw [BitVec.and_assoc, h, BitVec.and_zero]

/-- A merge changes nothing outside its mask. -/
theorem merge_and_not {k m : Word} (old new : Word) (h : within k m) : merge old new k &&& ~~~m = old &&& ~~~m :=
  and_not_eq_of_bits fun j hj => by rw [getLsbD_merge, h.getLsbD hj]; rfl

theorem putBit_and_not {m : Word} {i : Nat} (v : Word) (b : Bool) (hi : i < 64) (h : m.getLsbD i = true) :
    putBit v i b &&& ~~~m = v &&& ~~~m :=
  and_not_eq_of_bits fun j hj => by
    rw [getLsbD_putBit _ _ _ _ hi, if_neg]
    rintro rfl
    simp [h] at hj

theorem putMpp_and_not {m : Word} (v : Word) (p : BitVec 2) (h : within 0x1800#64 m) :
    putMpp v p &&& ~~~m = v &&& ~~~m := merge_and_not _ _ h

/-- A merge keeps the bits outside `m` zero when its mask lies in `m`. -/
theorem within.merge {old k m : Word} (h : within old m) (new : Word) (hk : within k m) : within (merge old new k) m :=
  (merge_and_not old new hk).trans h

theorem within.putBit {v m : Word} {i : Nat} (h : within v m) (b : Bool) (hi : i < 64) (hm : m.getLsbD i = true) :
    within (putBit v i b) m := (putBit_and_not v b hi hm).trans h

/-! ## Alignment -/

theorem Config.pcAligned_iff (c : Config) (a : Word) :
    c.pcAligned a = true ↔ a.getLsbD 0 = false ∧ (c.extC = false → a.getLsbD 1 = false) := by
  unfold Config.pcAligned
  cases c.extC <;> simp

/-- Alignment as divisibility by IALIGN (R13). -/
theorem Config.pcAligned_iff_mod (c : Config) (a : Word) :
    c.pcAligned a = true ↔ a.toNat % (if c.extC then 2 else 4) = 0 := by
  rw [Config.pcAligned_iff]
  simp only [BitVec.getLsbD, Nat.testBit_eq_decide_div_mod_eq, decide_eq_false_iff_not]
  cases c.extC
  · simp; omega
  · simp

theorem Config.pcAligned_epcMask (c : Config) (a : Word) : c.pcAligned (a &&& c.epcMask) = true := by
  rw [Config.pcAligned_iff]
  unfold Config.epcMask
  cases c.extC <;> simp

/-- A write under `epcMask` keeps a saved pc aligned (R85). -/
theorem Config.pcAligned_merge (c : Config) {old : Word} (new : Word) (h : c.pcAligned old = true) :
    c.pcAligned (merge old new c.epcMask) = true := by
  rw [Config.pcAligned_iff] at *
  simp only [getLsbD_merge]
  unfold Config.epcMask
  cases hc : c.extC with
  | false => exact ⟨h.1, fun _ => h.2 hc⟩
  | true => exact ⟨h.1, nofun⟩

/-- The address after an aligned instruction of two or four bytes (R57). -/
theorem Config.pcAligned_add (c : Config) {a : Word} {n : Nat} (h : c.pcAligned a = true)
    (hn : n = 4 ∨ n = 2 ∧ c.extC = true) : c.pcAligned (a + BitVec.ofNat 64 n) = true := by
  rw [Config.pcAligned_iff_mod] at *
  rw [BitVec.toNat_add, BitVec.toNat_ofNat]
  obtain rfl | ⟨rfl, hc⟩ := hn
  · cases hc : c.extC <;> simp only [hc] at h ⊢ <;> simp at h ⊢ <;> omega
  · simp only [hc] at h ⊢; simp at h ⊢; omega

theorem getLsbD_zero_add (a b : Word) : (a + b).getLsbD 0 = (a.getLsbD 0 ^^ b.getLsbD 0) := by
  rw [BitVec.getLsbD_add (by omega)]
  simp

/-- A vector address is a multiple of 4, whatever the mode of the vector register (R694). -/
theorem Config.pcAligned_vectorBase (c : Config) (v : Word) : c.pcAligned (vectorBase v) = true := by
  rw [Config.pcAligned_iff]
  simp [vectorBase]

theorem Config.pcAligned_vectorOf (c : Config) (v : Word) (e : TrapEvent) : c.pcAligned (vectorOf v e) = true := by
  unfold vectorOf
  cases e with
  | exception _ _ _ => exact c.pcAligned_vectorBase v
  | nmi _ => exact c.pcAligned_vectorBase v
  | interrupt i =>
    dsimp only
    split
    · have hb := c.pcAligned_vectorBase v
      rw [Config.pcAligned_iff_mod] at hb ⊢
      rw [BitVec.toNat_add, BitVec.toNat_ofNat]
      cases hc : c.extC <;> simp only [hc] at hb ⊢ <;> simp at hb ⊢ <;> omega
    · exact c.pcAligned_vectorBase v

end Sys2Proof.Machine
end

section
/-! The decoder answers well-formed instructions of enabled extensions only (30_encoding R266, R268, R270,
R280, R290). -/

namespace Sys2Proof

/-! ## Constraints of the decoded rows -/

/-- A field built with `k` zeros below is a multiple of `2 ^ k`. -/
@[simp] theorem lowZero_append_zero {n : Nat} (k : Nat) (v : BitVec n) : lowZero k (v ++ 0#k) = true := by
  simp [lowZero, BitVec.toNat_append, Nat.shiftLeft_eq]

/-- A decoder's answer is a well-formed instruction, if any. -/
def OnlyWellFormed (o : Option Instr) : Prop := ∀ i, o = some i → i.wellFormed = true

@[simp] theorem onlyWellFormed_none : OnlyWellFormed none := nofun

@[simp] theorem onlyWellFormed_some {i : Instr} : OnlyWellFormed (some i) ↔ i.wellFormed = true :=
  ⟨fun h => h i rfl, fun h _ e => Option.some.inj e ▸ h⟩

@[simp] theorem onlyWellFormed_ite {p : Prop} [Decidable p] {a b : Option Instr} :
    OnlyWellFormed (if p then a else b) ↔ (p → OnlyWellFormed a) ∧ (¬ p → OnlyWellFormed b) := by
  split <;> simp [*]

@[simp] theorem guardRow_wellFormed (i : Instr) : OnlyWellFormed (guardRow i) := by
  simp [guardRow]

/-- The constraints of a row, one by one. -/
theorem Instr.wellFormed_iff (i : Instr) : i.wellFormed = true ↔
    i.offsetOk = true ∧ i.scaleOk = true ∧ i.nonzeroOk = true ∧ i.regOk = true := by
  simp [Instr.wellFormed, and_assoc]

@[simp] theorem decLoad_wellFormed (f3 : BitVec 3) (rd rs1 : Reg) (imm : BitVec 12) :
    OnlyWellFormed (decLoad f3 rd rs1 imm) := by
  simp [decLoad, Instr.wellFormed_iff, Instr.offsetOk, Instr.scaleOk, Instr.nonzeroOk, Instr.regOk]

@[simp] theorem decStore_wellFormed (f3 : BitVec 3) (rs1 rs2 : Reg) (imm : BitVec 12) :
    OnlyWellFormed (decStore f3 rs1 rs2 imm) := by
  simp [decStore, Instr.wellFormed_iff, Instr.offsetOk, Instr.scaleOk, Instr.nonzeroOk, Instr.regOk]

theorem decBranch_wellFormed (f3 : BitVec 3) (rs1 rs2 : Reg) {off : BitVec 13} (h : lowZero 1 off = true) :
    OnlyWellFormed (decBranch f3 rs1 rs2 off) := by
  simp [decBranch, Instr.wellFormed_iff, Instr.offsetOk, Instr.scaleOk, Instr.nonzeroOk, Instr.regOk, h]

@[simp] theorem decOpImm_wellFormed (f3 : BitVec 3) (rd rs1 : Reg) (imm : BitVec 12) :
    OnlyWellFormed (decOpImm f3 rd rs1 imm) := by
  simp [decOpImm, Instr.wellFormed_iff, Instr.offsetOk, Instr.scaleOk, Instr.nonzeroOk, Instr.regOk]

@[simp] theorem decOpImm32_wellFormed (f3 : BitVec 3) (rd rs1 : Reg) (imm : BitVec 12) :
    OnlyWellFormed (decOpImm32 f3 rd rs1 imm) := by
  simp [decOpImm32, Instr.wellFormed_iff, Instr.offsetOk, Instr.scaleOk, Instr.nonzeroOk, Instr.regOk]

@[simp] theorem decOp_wellFormed (f7 : BitVec 7) (f3 : BitVec 3) (rd rs1 rs2 : Reg) :
    OnlyWellFormed (decOp f7 f3 rd rs1 rs2) := by
  simp [decOp, Instr.wellFormed_iff, Instr.offsetOk, Instr.scaleOk, Instr.nonzeroOk, Instr.regOk]

@[simp] theorem decOp32_wellFormed (f7 : BitVec 7) (f3 : BitVec 3) (rd rs1 rs2 : Reg) :
    OnlyWellFormed (decOp32 f7 f3 rd rs1 rs2) := by
  simp [decOp32, Instr.wellFormed_iff, Instr.offsetOk, Instr.scaleOk, Instr.nonzeroOk, Instr.regOk]

@[simp] theorem decMiscMem_wellFormed (f3 : BitVec 3) (imm : BitVec 12) : OnlyWellFormed (decMiscMem f3 imm) := by
  simp [decMiscMem, Instr.wellFormed_iff, Instr.offsetOk, Instr.scaleOk, Instr.nonzeroOk, Instr.regOk]

@[simp] theorem decSystem_wellFormed (w : Bits) (f3 : BitVec 3) (rd rs1 : Reg) (csr : CsrNum) :
    OnlyWellFormed (decSystem w f3 rd rs1 csr) := by
  simp [decSystem, Instr.wellFormed_iff, Instr.offsetOk, Instr.scaleOk, Instr.nonzeroOk, Instr.regOk]

theorem decode32_wellFormed (w : Bits) : OnlyWellFormed (decode32 w) := by
  simp only [decode32, onlyWellFormed_ite, decBranch_wellFormed, lowZero_append_zero, decLoad_wellFormed,
    decStore_wellFormed, decOpImm_wellFormed, decOpImm32_wellFormed, decOp_wellFormed, decOp32_wellFormed,
    decMiscMem_wellFormed, decSystem_wellFormed, onlyWellFormed_none, onlyWellFormed_some, Instr.wellFormed_iff,
    Instr.offsetOk, Instr.scaleOk, Instr.nonzeroOk, Instr.regOk, implies_true, and_self]

theorem decodeQ0_wellFormed (h : BitVec 16) : OnlyWellFormed (decodeQ0 h) := by
  simp +contextual only [decodeQ0, onlyWellFormed_ite, guardRow_wellFormed, lowZero_append_zero,
    onlyWellFormed_none, onlyWellFormed_some, Instr.wellFormed_iff, Instr.offsetOk, Instr.scaleOk,
    Instr.nonzeroOk, Instr.regOk, implies_true, and_self]

@[simp] theorem decodeQ1Arith_wellFormed (h : BitVec 16) (imm : BitVec 6) : OnlyWellFormed (decodeQ1Arith h imm) := by
  simp [decodeQ1Arith, Instr.wellFormed_iff, Instr.offsetOk, Instr.scaleOk, Instr.nonzeroOk, Instr.regOk]

theorem decodeQ1_wellFormed (h : BitVec 16) : OnlyWellFormed (decodeQ1 h) := by
  simp +contextual only [decodeQ1, onlyWellFormed_ite, guardRow_wellFormed, lowZero_append_zero,
    decodeQ1Arith_wellFormed, onlyWellFormed_some, Instr.wellFormed_iff, Instr.offsetOk, Instr.scaleOk,
    Instr.nonzeroOk, Instr.regOk, bne_iff_ne, ne_eq, not_false_eq_true, implies_true, and_self]

@[simp] theorem decodeQ2Reg_wellFormed (b : BitVec 1) (r1 r2 : Reg) : OnlyWellFormed (decodeQ2Reg b r1 r2) := by
  simp +contextual [decodeQ2Reg, Instr.wellFormed_iff, Instr.offsetOk, Instr.scaleOk, Instr.nonzeroOk, Instr.regOk]

theorem decodeQ2_wellFormed (h : BitVec 16) : OnlyWellFormed (decodeQ2 h) := by
  simp +contextual only [decodeQ2, onlyWellFormed_ite, guardRow_wellFormed, lowZero_append_zero,
    decodeQ2Reg_wellFormed, onlyWellFormed_none, onlyWellFormed_some, Instr.wellFormed_iff, Instr.offsetOk,
    Instr.scaleOk, Instr.nonzeroOk, Instr.regOk, implies_true, and_self]

/-- What decodes is a well-formed instruction. -/
theorem decodeBits_wellFormed (w : Bits) : OnlyWellFormed (decodeBits w) := by
  simp only [decodeBits, decode16, onlyWellFormed_ite, decode32_wellFormed, decodeQ0_wellFormed, decodeQ1_wellFormed,
    decodeQ2_wellFormed, onlyWellFormed_none, implies_true, and_self]

/-- What a configuration decodes is a well-formed instruction of an enabled extension (R290). -/
theorem decodeWith_ok {c : Machine.Config} {w : Bits} {i : Instr} (h : decodeWith c w = .ok i) :
    i.wellFormed = true ∧ c.hasExt i.ext = true := by
  unfold decodeWith at h
  split at h
  · cases h
  · next j hj =>
    split at h
    · next he =>
      cases h
      exact ⟨decodeBits_wellFormed w _ hj, he⟩
    · cases h

end Sys2Proof
end

section
/-! What executing an instruction is, for every row at once: the instruction begins, one of a few handler bodies runs,
and its result is finished (40_step_protocol R303 (e) to (g), R306). -/

namespace Sys2Proof.Machine

/-- The handler bodies an instruction can run, in the state in which it has begun. A jump or a branch has an even
target, and `sret` runs only where there is a supervisor mode. -/
inductive Body (s : State) : Handled → Prop
  | moves : Body s (.ok s)
  | writes (rd : Reg) (v : Word) : Body s (.ok (s.writeX rd v))
  | jumps (rd : Reg) (t : Word) (even : t.getLsbD 0 = false) : Body s (s.jumpBody rd t)
  | branches (taken : Bool) (t : Word) (even : t.getLsbD 0 = false) : Body s (s.branchBody taken t)
  | loads (n : Nat) (e : LoadExt) (rd : Reg) (a : Word) : Body s (s.loadBody n e rd a)
  | stores (n : Nat) (a v : Word) : Body s (s.storeBody n a v)
  | csr (op : CsrOp) (rd : Reg) (n : CsrNum) (m : Word) (w : Bool) (bits : Bits) : Body s (s.csrBody op rd n m w bits)
  | raises (e : Exc) (tval : Word) : Body s (.raise e tval s)
  | ebreak : Body s s.ebreakBody
  | mret : Body s s.mretBody
  | sret (supervisor : s.cfg.extS = true) : Body s s.sretBody
  | wfi : Body s s.wfiBody
  | sfence (rs1 rs2 : Reg) : Body s (s.sfenceBody rs1 rs2)

/-- The instruction runs one of the handler bodies, begun with its own width. -/
def RunsBody (i : Instr) (s : State) : Prop :=
  ∃ h, exec i s = .next ((s.startInstr i.len).finish h) ∧ Body (s.startInstr i.len) h

theorem RunsBody.of_retireX {i : Instr} {s : State} {rd : Reg} {v : Word}
    (h : exec i s = .next (s.retireX i.len rd v)) : RunsBody i s :=
  ⟨_, by rw [h, State.finish_ok (by simp), State.retireX], .writes rd v⟩

theorem RunsBody.of_retireNop {i : Instr} {s : State} (h : exec i s = .next (s.retireNop i.len)) : RunsBody i s :=
  ⟨.ok (s.startInstr i.len), h, .moves⟩

/-- A target that is an even offset from an even address is even. -/
theorem even_add_sext {n : Nat} {a : Word} {off : BitVec n} (ha : a.getLsbD 0 = false) (ho : lowZero 1 off = true) :
    (a + sext off).getLsbD 0 = false := by
  have h0 : off.getLsbD 0 = false := by
    simp only [lowZero, pow_one, beq_iff_eq] at ho
    simp [BitVec.getLsbD, Nat.testBit_eq_decide_div_mod_eq, ho]
  rw [getLsbD_zero_add, ha, sext, BitVec.getLsbD_signExtend]
  by_cases hn : 0 < n
  · rw [if_pos hn, h0]; rfl
  · simp [BitVec.msb_eq_getLsbD_last, show n = 0 by omega]

theorem even_jalrTarget (s : State) (rs1 : Reg) (off : Word) : (s.jalrTarget rs1 off).getLsbD 0 = false := by
  simp [State.jalrTarget]

/-- Every instruction the decoder can answer in a configuration runs one of the handler bodies. -/
theorem exec_runsBody {i : Instr} {s : State} (hpc : s.pc.getLsbD 0 = false) (ho : i.offsetOk = true)
    (he : s.cfg.hasExt i.ext = true) : RunsBody i s := by
  cases i with
  | lui | auipc | addi | slti | sltiu | xori | ori | andi | slli | srli | srai | add | sub | sll | slt | sltu
  | xor | srl | sra | or | and | addiw | slliw | srliw | sraiw | addw | subw | sllw | srlw | sraw | mul | mulh
  | mulhsu | mulhu | div | divu | rem | remu | mulw | divw | divuw | remw | remuw | cAddi4spn | cAddi | cAddiw
  | cLi | cAddi16sp | cLui | cSrli | cSrai | cAndi | cSub | cXor | cOr | cAnd | cSubw | cAddw | cSlli | cMv
  | cAdd => exact .of_retireX rfl
  | fence | fenceI | cNop => exact .of_retireNop rfl
  | jal | cJ => exact ⟨_, rfl, .jumps _ _ (even_add_sext hpc ho)⟩
  | jalr | cJr | cJalr => exact ⟨_, rfl, .jumps _ _ (even_jalrTarget s _ _)⟩
  | beq | bne | blt | bge | bltu | bgeu | cBeqz | cBnez => exact ⟨_, rfl, .branches _ _ (even_add_sext hpc ho)⟩
  | lb | lh | lw | ld | lbu | lhu | lwu | cLw | cLd | cLwsp | cLdsp => exact ⟨_, rfl, .loads _ _ _ _⟩
  | sb | sh | sw | sd | cSw | cSd | cSwsp | cSdsp => exact ⟨_, rfl, .stores _ _ _⟩
  | csrrw | csrrs | csrrc | csrrwi | csrrsi | csrrci => exact ⟨_, rfl, .csr _ _ _ _ _ _⟩
  | ecall | dret => exact ⟨_, rfl, .raises _ _⟩
  | ebreak | cEbreak => exact ⟨_, rfl, .ebreak⟩
  | mret => exact ⟨_, rfl, .mret⟩
  | sret => exact ⟨_, rfl, .sret he⟩
  | wfi => exact ⟨_, rfl, .wfi⟩
  | sfenceVma => exact ⟨_, rfl, .sfence _ _⟩

/-- The width of an instruction of an enabled extension keeps the pc aligned (R57, R58). -/
theorem Instr.len_of_hasExt {i : Instr} {c : Config} (h : c.hasExt i.ext = true) :
    i.len = 4 ∨ i.len = 2 ∧ c.extC = true := by
  unfold Instr.len
  split
  · next e => rw [e] at h; exact .inr ⟨rfl, h⟩
  · exact .inl rfl

end Sys2Proof.Machine
end

section
/-! The effects a step is made of, and that every step is a chain of them: an invariant of the step is then a predicate
that each effect keeps (40_step_protocol R302, R303, R310, R315). -/

namespace Sys2Proof.Machine

open Relation

/-! ## Effects -/

/-- One effect a step can have, with what the step guarantees of it. The guards are those of the model: a pc that is set
is aligned, S is entered and left by `sret` only where it exists, and an instruction writes only a CSR that exists. -/
inductive Effect (s : State) : State → Prop
  /-- what no invariant reads -/
  | hidden (x : Vector Word 31) (nmi : Bool) (cause : Word) (n : Nat) (cs : List (CountKey × Nat)) (c : Ctx) (k : Nat)
      (fl : List Flush) :
      Effect s { s with x := x, nmiPending := nmi, nmiCause := cause, execCount := n, counts := cs, ctx := c, tick := k,
                        flushes := fl }
  | outside (m : Memory) (c : Clint) (canonical : s.mem.wf → m.wf) : Effect s { s with mem := m, clint := c }
  | slots (ts : List TrigSlot) (same : ts.length = s.trig.length) : Effect s { s with trig := ts }
  | commit (aligned : s.cfg.pcAligned s.ctx.nextPc = true) : Effect s s.commit
  | csrStore (r : Csr) (v : Word) (present : r.present s.cfg = true) : Effect s (s.csrStore false r v)
  | enterM (e : TrapEvent) (p : Word) (aligned : s.cfg.pcAligned p = true) : Effect s (s.enterM e p)
  | enterS (e : TrapEvent) (supervisor : s.cfg.extS = true) : Effect s (s.enterS e)
  | enterDebug (c : DebugCause) (p : Word) : Effect s (s.enterDebug c p)
  | returnM : Effect s s.returnM
  | returnS (supervisor : s.cfg.extS = true) : Effect s s.returnS
  | counters (c i : Word) (h : Vector Word 29) :
      Effect s { s with csr := { s.csr with mcycle := c, minstret := i, mhpmcounter := h } }
  | inputs (msip mtip : Bool) :
      Effect s { s with csr := { s.csr with mip := putBit (putBit s.csr.mip 3 msip) 7 mtip } }
  | stop (r : StopReason) : Effect s { s with done := true, stopReason := some r }

/-- A chain of effects. -/
abbrev Effects : State → State → Prop := ReflTransGen Effect

/-- A predicate that every effect keeps, a chain of effects keeps. -/
theorem Effects.keeps {P : State → Prop} (hP : ∀ {s t : State}, Effect s t → P s → P t) {s t : State}
    (h : Effects s t) (hs : P s) : P t := by
  induction h with
  | refl => exact hs
  | tail _ h ih => exact hP h ih

/-- A write of `tdata1` or `tdata2` changes at most the contents of the slots (R754, R757). -/
theorem State.csrStore_slots (s : State) (byHost : Bool) {r : Csr} (v : Word) (hr : r = .tdata1 ∨ r = .tdata2) :
    ∃ ts, ts.length = s.trig.length ∧ s.csrStore byHost r v = { s with trig := ts } := by
  have hu (keep : Bool) (i : Nat) (f : TrigSlot → TrigSlot) :
      ∃ ts, ts.length = s.trig.length ∧ (if keep then s else s.updateSlot i f) = { s with trig := ts } := by
    split
    · exact ⟨s.trig, rfl, rfl⟩
    · exact ⟨_, List.length_modify _ _ _, rfl⟩
  rcases hr with rfl | rfl <;> exact hu _ _ _

theorem State.csrStore_trig_length (s : State) (byHost : Bool) (r : Csr) (v : Word) :
    (s.csrStore byHost r v).trig.length = s.trig.length := by
  cases r with
  | tdata1 => obtain ⟨ts, hl, h⟩ := s.csrStore_slots byHost v (.inl rfl); rw [h]; exact hl
  | tdata2 => obtain ⟨ts, hl, h⟩ := s.csrStore_slots byHost v (.inr rfl); rw [h]; exact hl
  | pmpaddr | tselect => simp only [State.csrStore]; split <;> rfl
  | _ => rfl

/-- A step keeps the parameters and the number of slots. -/
theorem Effects.same {s t : State} (h : Effects s t) : t.cfg = s.cfg ∧ t.trig.length = s.trig.length := by
  induction h with
  | refl => exact ⟨rfl, rfl⟩
  | tail _ h ih =>
    cases h with
    | slots _ hl => exact ⟨ih.1, hl.trans ih.2⟩
    | csrStore => exact ⟨(State.csrStore_cfg ..).trans ih.1, (State.csrStore_trig_length ..).trans ih.2⟩
    | _ => exact ih

/-! ## The operations an instruction is made of -/

theorem markHits_length (ms : List Nat) (i : Nat) (ts : List TrigSlot) : (markHits ms i ts).length = ts.length := by
  induction ts generalizing i with
  | nil => rfl
  | cons t rest ih => simp [markHits, ih]

theorem icountScan_length (c : Ctx) (i : Nat) (ts : List TrigSlot) : (icountScan c i ts).2.length = ts.length :=
  (icountScan_spec c ts i).1

section
variable (s : State)

theorem Effects.context (c : Ctx) : Effects s { s with ctx := c } := .single (.hidden ..)

theorem Effects.touch (ps : List Word) : Effects s (s.touch ps) := by
  unfold State.touch
  split
  · exact .single (.hidden ..)
  · exact .refl

theorem Effects.setPhysBytes (ps : List Word) (bs : List Byte) : Effects s (s.setPhysBytes ps bs) := by
  induction ps generalizing s bs with
  | nil => cases bs <;> exact .refl
  | cons p ps ih =>
    cases bs with
    | nil => exact .refl
    | cons b bs =>
      refine .trans ?_ (ih (s.setPhysByte p b) bs)
      unfold State.setPhysByte
      split
      · exact .single (.outside s.mem _ id)
      · split
        · exact .refl
        · exact .single (.outside _ s.clint fun h => Memory.wf_write h _ _)

theorem Effects.triggerEval (k : TrigKind) (v : Word) (tm : Timing) (w : Word) :
    Effects s (s.triggerEval k v tm w).2 := by
  unfold State.triggerEval
  dsimp only
  split
  · exact .refl
  · exact .single (.slots _ (markHits_length _ _ _))

theorem Effects.writeX (rd : Reg) (v : Word) : Effects s (s.writeX rd v) := by
  unfold State.writeX State.setX
  dsimp only
  split <;> exact .single (.hidden ..)

theorem Effects.csrWrite {r : Csr} (v : Word) (h : r.present s.cfg = true) : Effects s (s.csrWrite r v) :=
  (Effects.context _ _).head (.csrStore r v h)

/-- The addresses of the vector table are aligned, those of the fast-interrupt table too (R694, R697). -/
theorem State.pcAligned_vectorM (e : TrapEvent) : s.cfg.pcAligned (s.vectorM e) = true := by
  unfold State.vectorM
  split
  · split
    · exact s.cfg.pcAligned_epcMask _
    · exact s.cfg.pcAligned_vectorBase _
  · exact s.cfg.pcAligned_vectorOf _ _

theorem Effects.afterVector (e : TrapEvent) : Effects s (s.afterVector e) := by
  unfold State.afterVector
  split
  · split
    · exact Effects.touch s _
    · exact .single (.hidden ..)
  · exact .refl

theorem Effects.noteTrap (e : TrapEvent) : Effects s (s.noteTrap e) := .single (.hidden ..)

theorem Effects.takeTrap (e : TrapEvent) : Effects s (s.takeTrap e) := by
  unfold State.takeTrap
  split
  · have hp : (s.afterVector e).cfg.pcAligned (s.vectorM e) = true := by simpa using s.pcAligned_vectorM e
    exact ((Effects.afterVector s e).tail (.enterM e _ hp)).trans (Effects.noteTrap _ e)
  · next h =>
    have hS : s.cfg.extS = true := by
      unfold State.targetMode at h
      split at h
      · next hd => exact hd.1
      · exact absurd rfl h
    exact (Effects.noteTrap _ e).head (.enterS e hS)

theorem Effects.takeNmi (h : s.cfg.pcAligned s.cfg.nmiPc = true) : Effects s s.takeNmi :=
  ((Effects.noteTrap _ _).head (.enterM (.nmi s.nmiCause) s.cfg.nmiPc h)).tail (.hidden ..)

theorem Effects.triggerAction (t : Trip) (p : Word) : Effects s (s.triggerAction t p) := by
  unfold State.triggerAction
  split
  · exact .single (.enterDebug _ _)
  · exact Effects.takeTrap s _

/-- An undo puts back the state before the handler, but for what the handler did to the trigger slots. -/
theorem Effects.undo {t : State} (h : t.trig.length = s.trig.length) : Effects s (s.undo t) :=
  (ReflTransGen.single (.slots t.trig h)).tail (.hidden ..)

end

/-! ## Handler bodies -/

/-- What a handler may answer: a state it reaches by effects, and when it completes an aligned next pc. -/
def Handled.Sound (s : State) : Handled → Prop
  | .ok t => Effects s t ∧ s.cfg.pcAligned t.ctx.nextPc = true
  | .raise _ _ t => Effects s t
  | .trip _ t => Effects s t
  | .debug _ t => Effects s t

/-- The end of an instruction whose handler answered soundly. -/
theorem Handled.Sound.finish {s : State} {h : Handled} (hh : h.Sound s) : Effects s (s.finish h) := by
  cases h with
  | ok t =>
    obtain ⟨he, hp⟩ := hh
    unfold State.finish
    dsimp only
    split
    · exact (Effects.undo s he.same.2).trans (Effects.triggerAction _ _ _)
    · exact he.tail (.commit (he.same.1 ▸ hp))
  | raise e tval t => exact (Effects.undo s (Effects.same hh).2).trans (Effects.takeTrap _ _)
  | trip tr t => exact (Effects.undo s (Effects.same hh).2).trans (Effects.triggerAction _ _ _)
  | debug c t => exact (Effects.undo s (Effects.same hh).2).tail (.enterDebug _ _)

/-- An even target that passes the alignment check is aligned (R430). -/
theorem State.pcAligned_of_targetOk {s : State} {t : Word} (h0 : t.getLsbD 0 = false) (h : s.targetOk t = true) :
    s.cfg.pcAligned t = true := by
  rw [Config.pcAligned_iff]
  unfold State.targetOk at h
  refine ⟨h0, fun hc => ?_⟩
  simpa [hc] using h

theorem csrAccess_present {s : State} {n : CsrNum} {w : Bool} {r : Csr} (h : s.csrAccess n w = some r) :
    r.present s.cfg = true := by
  have hd : ¬ csrDenied s n w := fun e => by rw [State.csrAccess_eq_none.2 e] at h; cases h
  obtain ⟨r', hr, hn⟩ := State.csrAccess_eq_some hd
  obtain rfl : r' = r := Option.some.inj (hr.symm.trans h)
  unfold State.csrOf at hn
  split at hn
  · split at hn
    · next hp => cases hn; exact hp
    · cases hn
  · cases hn

/-- A read that succeeds has only the effects of touching devices. -/
theorem Effects.memRead {s t : State} {a v : Word} {n : Nat} (h : s.memRead a n = .ok (v, t)) :
    Effects s t ∧ t.ctx = s.ctx := by
  unfold State.memRead at h
  split at h
  · cases h
  · cases h
    exact ⟨Effects.touch s _, State.touch_ctx s _⟩

theorem Effects.memWrite {s t : State} {a v : Word} {n : Nat} {w : Written} (h : s.memWrite a n v = .ok (w, t)) :
    Effects s t ∧ t.ctx = s.ctx := by
  unfold State.memWrite at h
  split at h
  · cases h
  · cases h
    exact ⟨(Effects.touch s _).trans (Effects.setPhysBytes _ _ _), by simp⟩

theorem Effects.loadChecks (s : State) (a v : Word) : Effects s (s.loadChecks a v) :=
  ((Effects.triggerEval ..).trans (Effects.triggerEval ..)).trans (Effects.context ..)

theorem Effects.loadWrite (s : State) (n : Nat) (e : LoadExt) (rd : Reg) (a v : Word) :
    Effects s (s.loadWrite n e rd a v) :=
  (Effects.writeX ..).trans (Effects.context ..)

theorem Effects.storeChecks (s : State) (tm : Timing) (a v : Word) : Effects s (s.storeChecks tm a v).2 :=
  (Effects.triggerEval ..).trans (Effects.triggerEval ..)

theorem loadBody_sound (s : State) (n : Nat) (e : LoadExt) (rd : Reg) (a : Word)
    (hp : s.cfg.pcAligned s.ctx.nextPc = true) : (s.loadBody n e rd a).Sound s := by
  have hb := Effects.triggerEval s .loadAddr a .before a
  unfold State.loadBody
  dsimp only
  split
  · exact hb
  · split
    · exact hb
    · next hr =>
      obtain ⟨he, hc⟩ := Effects.memRead hr
      exact ⟨((hb.trans he).trans (Effects.loadChecks ..)).trans (Effects.loadWrite ..),
        by simpa [State.loadWrite, State.loadChecks, State.addAfter, hc] using hp⟩

theorem storeBody_sound (s : State) (n : Nat) (a v : Word) (hp : s.cfg.pcAligned s.ctx.nextPc = true) :
    (s.storeBody n a v).Sound s := by
  have hb := Effects.storeChecks s .before a v
  unfold State.storeBody
  dsimp only
  split
  · exact hb
  · split
    · exact hb
    · next hw =>
      obtain ⟨he, hc⟩ := Effects.memWrite hw
      exact ⟨(((hb.trans he).trans (Effects.storeChecks ..)).trans (Effects.context ..)).trans (Effects.context ..),
        by simpa [State.noteStore, State.addAfter, State.storeChecks, hc] using hp⟩

theorem csrBody_sound (s : State) (op : CsrOp) (rd : Reg) (n : CsrNum) (m : Word) (w : Bool) (bits : Bits)
    (hp : s.cfg.pcAligned s.ctx.nextPc = true) : (s.csrBody op rd n m w bits).Sound s := by
  unfold State.csrBody
  split
  · exact ReflTransGen.refl
  · next r hr =>
    refine ⟨.trans ?_ (Effects.writeX ..), ?_⟩
    · split
      · exact Effects.csrWrite s _ (csrAccess_present hr)
      · exact .refl
    · split <;> simpa using hp

/-- Every handler body answers soundly, from a state that satisfies the invariant. -/
theorem Body.sound {s : State} {h : Handled} (hb : Body s h) (hs : s.Inv)
    (hp : s.cfg.pcAligned s.ctx.nextPc = true) : h.Sound s := by
  cases hb with
  | moves => exact ⟨.refl, hp⟩
  | writes rd v => exact ⟨Effects.writeX s rd v, by simpa using hp⟩
  | jumps rd t h0 =>
    unfold State.jumpBody
    split
    · next ht => exact ⟨(Effects.writeX ..).trans (Effects.context ..), State.pcAligned_of_targetOk h0 ht⟩
    · exact ReflTransGen.refl
  | branches taken t h0 =>
    unfold State.branchBody
    split
    · split
      · next ht => exact ⟨Effects.context .., State.pcAligned_of_targetOk h0 ht⟩
      · exact ReflTransGen.refl
    · exact ⟨.refl, hp⟩
  | loads n e rd a => exact loadBody_sound s n e rd a hp
  | stores n a v => exact storeBody_sound s n a v hp
  | csr op rd n m w bits => exact csrBody_sound s op rd n m w bits hp
  | raises e tval => exact ReflTransGen.refl
  | ebreak => unfold State.ebreakBody; split <;> exact ReflTransGen.refl
  | mret =>
    unfold State.mretBody
    split
    · exact ⟨.single .returnM, hs.mepcAligned⟩
    · exact ReflTransGen.refl
  | sret hS =>
    unfold State.sretBody
    split
    · exact ReflTransGen.refl
    · exact ⟨.single (.returnS hS), hs.sepcAligned⟩
  | wfi =>
    unfold State.wfiBody
    split
    · exact ReflTransGen.refl
    · exact ⟨.refl, hp⟩
  | sfence rs1 rs2 =>
    unfold State.sfenceBody
    split
    · exact ReflTransGen.refl
    · exact ⟨.single (.hidden ..), hp⟩

end Sys2Proof.Machine
end

section
/-! The invariant of memory, pcs and modes is kept by every effect, so by every step (10_state R58, R60, R71, R85, R126,
R140, R141). -/

namespace Sys2Proof.Machine

open Relation

/-! ## What an admitted configuration grants -/

theorem Config.extU_of_admitted {c : Config} (h : c.admitted = true) (hS : c.extS = true) : c.extU = true := by
  simp only [Config.admitted, Bool.and_eq_true, hS] at h
  simpa using h.2.2.2.1

theorem Config.nmiPc_aligned_of_admitted {c : Config} (h : c.admitted = true) : c.pcAligned c.nmiPc = true := by
  simp only [Config.admitted, Bool.and_eq_true] at h
  exact h.2.2.2.2.2.1

/-! ## Modes -/

theorem Config.modeLegal_code (c : Config) (p : Priv) : c.modeLegal p.code = c.privLegal p := by cases p <;> rfl

theorem Config.privLegal_modeOf {c : Config} {p : BitVec 2} (h : c.modeLegal p = true) :
    c.privLegal (modeOf p) = true := by
  unfold Config.modeLegal at h
  unfold modeOf
  split <;> simp_all [Config.privLegal]

theorem Config.privLegal_leastMode (c : Config) : c.privLegal c.leastMode = true := by
  unfold Config.leastMode
  split
  · next h => exact h
  · rfl

theorem mppOf_congr {v w : Word} (h0 : v.getLsbD 11 = w.getLsbD 11) (h1 : v.getLsbD 12 = w.getLsbD 12) :
    mppOf v = mppOf w := by
  apply BitVec.eq_of_getLsbD_eq
  intro j hj
  rw [mppOf, mppOf, BitVec.getLsbD_extractLsb', BitVec.getLsbD_extractLsb']
  interval_cases j
  · exact congrArg _ h0
  · exact congrArg _ h1

theorem mppOf_putBit (v : Word) (i : Nat) (b : Bool) (hi : i < 11) : mppOf (putBit v i b) = mppOf v :=
  mppOf_congr (by rw [getLsbD_putBit _ _ _ _ (by omega), if_neg (by omega)])
    (by rw [getLsbD_putBit _ _ _ _ (by omega), if_neg (by omega)])

theorem mppOf_merge {mask : Word} (old new : Word) (h0 : mask.getLsbD 11 = false) (h1 : mask.getLsbD 12 = false) :
    mppOf (merge old new mask) = mppOf old :=
  mppOf_congr (by rw [getLsbD_merge, h0]; rfl) (by rw [getLsbD_merge, h1]; rfl)

theorem mppOf_statusToM (v : Word) (p : Priv) : mppOf (statusToM v p) = p.code := mppOf_putMpp _ _

theorem mppOf_statusToS (v : Word) (p : Priv) : mppOf (statusToS v p) = mppOf v := by
  unfold statusToS
  rw [mppOf_putBit _ _ _ (by decide), mppOf_putBit _ _ _ (by decide), mppOf_putBit _ _ _ (by decide)]

theorem mppOf_statusMret (c : Config) (v : Word) : mppOf (statusMret c v) = c.leastMode.code := mppOf_putMpp _ _

theorem mppOf_statusSret (v : Word) : mppOf (statusSret v) = mppOf v := by
  unfold statusSret
  rw [mppOf_putBit _ _ _ (by decide), mppOf_putBit _ _ _ (by decide), mppOf_putBit _ _ _ (by decide)]

/-- The MPP a write of `mstatus` leaves is legal (R71). -/
theorem Config.modeLegal_legalMstatus {c : Config} {old : Word} (new : Word) (h : c.modeLegal (mppOf old) = true) :
    c.modeLegal (mppOf (legalMstatus c old new)) = true := by
  unfold legalMstatus
  split
  · assumption
  · rwa [mppOf_putMpp]

/-- The low two bits of a merge under `3` are the new ones. -/
theorem low2_merge (old new : Word) : (merge old new 3#64).extractLsb' 0 2 = new.extractLsb' 0 2 := by
  apply BitVec.eq_of_getLsbD_eq
  intro j hj
  simp only [BitVec.getLsbD_extractLsb', getLsbD_merge]
  interval_cases j <;> rfl

/-- `dcsr.prv` after debug entry (R780). -/
theorem prv_dcsrEntry (v : Word) (c : DebugCause) (p : Priv) : (dcsrEntry v c p).extractLsb' 0 2 = p.code := by
  rw [dcsrEntry, low2_merge]
  cases p <;> rfl

/-- The `prv` a write of `dcsr` leaves is legal (R140). -/
theorem Config.modeLegal_legalDcsr {c : Config} {old : Word} (new : Word)
    (h : c.modeLegal (old.extractLsb' 0 2) = true) : c.modeLegal ((legalDcsr c old new).extractLsb' 0 2) = true := by
  unfold legalDcsr
  split
  · assumption
  · rwa [low2_merge]

/-! ## The invariant -/

/-- A CSR write by an instruction or by the host keeps the invariant. -/
theorem State.Inv.csrStore {s : State} (hs : s.Inv) (byHost : Bool) (r : Csr) (v : Word) :
    (s.csrStore byHost r v).Inv := by
  have hm : ∀ q, q ∈ [Csr.mepc, .sepc, .dpc] → s.maskFor byHost q = s.cfg.epcMask := by
    cases byHost <;> simp [State.maskFor, State.pokeMask, State.writeMask]
  cases r with
  | sepc =>
    exact { hs with sepcAligned := by simpa [State.csrStore, hm] using s.cfg.pcAligned_merge v hs.sepcAligned }
  | mepc =>
    exact { hs with mepcAligned := by simpa [State.csrStore, hm] using s.cfg.pcAligned_merge v hs.mepcAligned }
  | dpc =>
    exact { hs with dpcAligned := by simpa [State.csrStore, hm] using s.cfg.pcAligned_merge v hs.dpcAligned }
  | mstatus => exact { hs with mppLegal := Config.modeLegal_legalMstatus _ hs.mppLegal }
  | sstatus =>
    refine { hs with mppLegal := ?_ }
    have hq : s.maskFor byHost .sstatus = 0xC0122#64 := by cases byHost <;> rfl
    simpa [State.csrStore, hq, mppOf_merge] using hs.mppLegal
  | dcsr => exact { hs with dcsrPrvLegal := Config.modeLegal_legalDcsr _ hs.dcsrPrvLegal }
  | pmpaddr | tselect => simp only [State.csrStore]; split <;> exact { hs with }
  | tdata1 => obtain ⟨ts, -, h⟩ := s.csrStore_slots byHost v (.inl rfl); rw [h]; exact { hs with }
  | tdata2 => obtain ⟨ts, -, h⟩ := s.csrStore_slots byHost v (.inr rfl); rw [h]; exact { hs with }
  | _ => exact { hs with }

theorem Effect.inv {s t : State} (h : Effect s t) (hs : s.Inv) : t.Inv := by
  cases h with
  | hidden => exact { hs with }
  | outside m c hm => exact { hs with memWf := hm hs.memWf }
  | slots => exact { hs with }
  | commit hp => exact { hs with pcAligned := hp }
  | csrStore r v _ => exact hs.csrStore false r v
  | enterM e p hp =>
    exact { hs with
      pcAligned := hp
      mepcAligned := s.cfg.pcAligned_epcMask _
      privLegal := rfl
      mppLegal := by simpa [mppOf_statusToM, Config.modeLegal_code] using hs.privLegal }
  | enterS e hS =>
    exact { hs with
      pcAligned := s.cfg.pcAligned_vectorOf _ _
      sepcAligned := s.cfg.pcAligned_epcMask _
      privLegal := hS
      mppLegal := by simpa [mppOf_statusToS] using hs.mppLegal }
  | enterDebug c p =>
    exact { hs with
      dpcAligned := s.cfg.pcAligned_epcMask _
      dcsrPrvLegal := by
        show s.cfg.modeLegal ((dcsrEntry s.csr.dcsr c s.priv).extractLsb' 0 2) = true
        rw [prv_dcsrEntry, Config.modeLegal_code, hs.privLegal] }
  | returnM =>
    exact { hs with
      privLegal := Config.privLegal_modeOf hs.mppLegal
      mppLegal := by
        show s.cfg.modeLegal (mppOf (statusMret s.cfg s.csr.mstatus)) = true
        rw [mppOf_statusMret, Config.modeLegal_code, Config.privLegal_leastMode] }
  | returnS hS =>
    exact { hs with
      privLegal := by
        show s.cfg.privLegal (if s.status mstatusSPP then .s else .u) = true
        split
        · exact hS
        · exact Config.extU_of_admitted hs.admitted hS
      mppLegal := by
        show s.cfg.modeLegal (mppOf (statusSret s.csr.mstatus)) = true
        rw [mppOf_statusSret, hs.mppLegal] }
  | counters => exact { hs with }
  | inputs => exact { hs with }
  | stop => exact { hs with }

theorem Effects.inv {s t : State} (h : Effects s t) (hs : s.Inv) : t.Inv := h.keeps Effect.inv hs

/-! ## Every step is a chain of effects -/

/-- An instruction that decodes in a configuration is a chain of effects. -/
theorem Effects.exec {s t : State} {i : Instr} {bits : Bits} (hs : s.Inv) (hd : decodeWith s.cfg bits = .ok i)
    (h : exec i s = .next t) : Effects s t := by
  obtain ⟨hw, he⟩ := decodeWith_ok hd
  obtain ⟨b, hb, hbody⟩ := exec_runsBody ((s.cfg.pcAligned_iff _).1 hs.pcAligned).1
    ((Instr.wellFormed_iff i).1 hw).1 he
  obtain rfl : (s.startInstr i.len).finish b = t := Host.Outcome.next.inj (hb.symm.trans h)
  have hu : Effects s (s.startInstr i.len) := Effects.context s _
  have hp := s.cfg.pcAligned_add hs.pcAligned (Instr.len_of_hasExt he)
  exact hu.trans (hbody.sound (hu.inv hs) hp).finish

theorem Effects.decodeAndRun {s t : State} {bits : Bits} (hs : s.Inv) (h : s.decodeAndRun bits = .next t) :
    Effects s t := by
  unfold State.decodeAndRun at h
  split at h
  · cases h; exact Effects.takeTrap s _
  · next hd => exact Effects.exec hs hd h

theorem Effects.runFetched {s t : State} {bits : Bits} (hs : s.Inv) (h : s.runFetched bits = .next t) :
    Effects s t := by
  unfold State.runFetched at h
  dsimp only at h
  have hr : Effects s (State.triggerEval { s with tick := s.tick + 1, ctx := { s.ctx with bits := bits } }
      .execOpcode (zext bits) .before s.pc).2 := (Effects.triggerEval ..).head (.hidden ..)
  split at h
  · cases h; exact hr.trans (Effects.triggerAction ..)
  · exact hr.trans (Effects.decodeAndRun (hr.inv hs) h)

theorem Effects.executeOne {s t : State} (hs : s.Inv) (h : s.executeOne = .next t) : Effects s t := by
  unfold State.executeOne at h
  dsimp only at h
  have hr := Effects.triggerEval s .execAddr s.pc .before s.pc
  split at h
  · cases h; exact hr.trans (Effects.triggerAction ..)
  · split at h
    · cases h; exact hr.trans (Effects.takeTrap ..)
    · exact hr.trans (Effects.runFetched (hr.inv hs) h)

theorem Effects.beginStep (s : State) : Effects s s.beginStep := by
  unfold State.beginStep State.sampleInputs
  split
  · exact (ReflTransGen.single (.inputs _ _)).tail (.hidden ..)
  · exact .single (.hidden ..)

theorem Effects.branchStep {s t : State} (hs : s.Inv) (h : s.branchStep = .next t) : Effects s t := by
  unfold State.branchStep at h
  split at h
  · cases h; exact .single (.enterDebug ..)
  · split at h
    · cases h; exact Effects.takeNmi s (Config.nmiPc_aligned_of_admitted hs.admitted)
    · split at h
      · cases h; exact Effects.takeTrap s _
      · have hc := Effects.context s { s.ctx with attempted := true }
        exact hc.trans (Effects.executeOne (hc.inv hs) h)

theorem Effects.countCycle (s : State) : Effects s s.countCycle := by
  unfold State.countCycle
  split
  · exact .refl
  · exact .single (.counters _ s.csr.minstret s.csr.mhpmcounter)

theorem Effects.countInstret (s : State) : Effects s s.countInstret := by
  unfold State.countInstret
  split
  · exact .refl
  · exact .single (.counters s.csr.mcycle _ s.csr.mhpmcounter)

theorem Effects.countHpm (s : State) : Effects s s.countHpm := by
  unfold State.countHpm
  split
  · exact .refl
  · exact .single (.counters s.csr.mcycle s.csr.minstret _)

theorem Effects.countTriggers (s : State) : Effects s s.countTriggers := by
  have hr : Effects s { s with trig := (icountScan s.ctx 0 s.trig).2 } := .single (.slots _ (icountScan_length _ _ _))
  unfold State.countTriggers
  dsimp only
  split
  · exact hr.trans (Effects.triggerAction ..)
  · exact hr

theorem Effects.endSingleStep (s : State) : Effects s s.endSingleStep := by
  unfold State.endSingleStep
  split
  · exact .single (.enterDebug ..)
  · exact .refl

theorem Effects.endStep (s : State) : Effects s s.endStep := by
  have hc := Effects.countCycle s
  have hr : Effects s (if s.countCycle.ctx.retired then s.countCycle.countInstret.countHpm.countTriggers
      else s.countCycle) := by
    split
    · exact ((hc.trans (Effects.countInstret _)).trans (Effects.countHpm _)).trans (Effects.countTriggers _)
    · exact hc
  have hn (v : State) : Effects v (if v.ctx.attempted then { v with execCount := v.execCount + 1 } else v) := by
    split
    · exact .single (.hidden ..)
    · exact .refl
  exact (hr.trans (Effects.endSingleStep _)).trans (hn _)

theorem Effects.closeStep (s : State) : Effects s s.closeStep := by
  refine ((Effects.endStep s).trans ?_).tail (.hidden ..)
  unfold State.stopCheck
  split
  · exact .single (.stop _)
  · exact .refl

/-- What a step can do: a chain of effects, that leaves no step context but the one the state had (R302). -/
theorem step_effects {s t : State} (hs : s.Inv) (h : step s = .next t) :
    Effects s t ∧ (t.ctx = s.ctx ∨ t.ctx = {}) := by
  unfold step State.stepAny State.stepAdmitted at h
  rw [if_pos hs.admitted] at h
  split at h
  · cases h; exact ⟨.refl, .inl rfl⟩
  · split at h
    · cases h; exact ⟨.refl, .inl rfl⟩
    · split at h
      · cases h; exact ⟨.single (.stop _), .inl rfl⟩
      · unfold State.runStep at h
        have hb := Effects.beginStep s
        split at h <;> cases h
        next u hu => exact ⟨(hb.trans (Effects.branchStep (hb.inv hs) hu)).trans (Effects.closeStep u), .inr rfl⟩

/-- Settles O51: every effect of a step keeps the invariant. -/
theorem stepKeepsTheInvariant : Obligations.StepKeepsTheInvariant :=
  fun _ _ hs h => (step_effects hs h).1.inv hs

end Sys2Proof.Machine
end

section
/-! Every effect, so every step, keeps the hardwired fields, the bounds of slots and queues, and the idle flags
(10_state R70, R76 to R79, R88, R123, R135, R143, R148, R157; 61_debug_triggers R780; 62_rollback_queue R803). -/

namespace Sys2Proof.Machine

open Relation

/-! ## The bits of `mstatus` a step can change (R70) -/

/-- The bits of `mstatus` that are not hardwired: the writable ones, and MPP. -/
def Config.mstatusVaries (c : Config) : Word := c.mstatusMask ||| 0x1800#64

theorem Config.mstatusVaries_machine (c : Config) :
    c.mstatusVaries.getLsbD mstatusMIE = true ∧ c.mstatusVaries.getLsbD mstatusMPIE = true := by
  unfold Config.mstatusVaries Config.mstatusMask
  cases c.extU <;> cases c.extS <;> decide

theorem Config.mstatusVaries_supervisor {c : Config} (h : c.extS = true) :
    c.mstatusVaries.getLsbD mstatusSIE = true ∧ c.mstatusVaries.getLsbD mstatusSPIE = true
      ∧ c.mstatusVaries.getLsbD mstatusSPP = true := by
  unfold Config.mstatusVaries Config.mstatusMask
  rw [h]
  cases c.extU <;> decide

theorem Config.within_mpp (c : Config) : within 0x1800#64 c.mstatusVaries := by
  unfold within Config.mstatusVaries Config.mstatusMask
  cases c.extU <;> cases c.extS <;> decide

theorem Config.within_mstatusMask (c : Config) : within c.mstatusMask c.mstatusVaries := by
  unfold within Config.mstatusVaries Config.mstatusMask
  cases c.extU <;> cases c.extS <;> decide

/-- The bits a write of `sstatus` reaches (R121). -/
theorem Config.within_sstatusMask {c : Config} (h : c.extS = true) : within 0xC0122#64 c.mstatusVaries := by
  unfold within Config.mstatusVaries Config.mstatusMask
  rw [h]
  cases c.extU <;> decide

theorem statusToM_and_not (c : Config) (v : Word) (p : Priv) :
    statusToM v p &&& ~~~c.mstatusVaries = v &&& ~~~c.mstatusVaries := by
  obtain ⟨hMIE, hMPIE⟩ := c.mstatusVaries_machine
  unfold statusToM
  rw [putMpp_and_not _ _ c.within_mpp, putBit_and_not _ _ (by decide) hMIE, putBit_and_not _ _ (by decide) hMPIE]

theorem statusToS_and_not {c : Config} (h : c.extS = true) (v : Word) (p : Priv) :
    statusToS v p &&& ~~~c.mstatusVaries = v &&& ~~~c.mstatusVaries := by
  obtain ⟨hSIE, hSPIE, hSPP⟩ := Config.mstatusVaries_supervisor h
  unfold statusToS
  rw [putBit_and_not _ _ (by decide) hSPP, putBit_and_not _ _ (by decide) hSIE, putBit_and_not _ _ (by decide) hSPIE]

theorem statusMret_and_not (c : Config) (v : Word) :
    statusMret c v &&& ~~~c.mstatusVaries = v &&& ~~~c.mstatusVaries := by
  obtain ⟨hMIE, hMPIE⟩ := c.mstatusVaries_machine
  unfold statusMret
  rw [putMpp_and_not _ _ c.within_mpp, putBit_and_not _ _ (by decide) hMPIE, putBit_and_not _ _ (by decide) hMIE]

theorem statusSret_and_not {c : Config} (h : c.extS = true) (v : Word) :
    statusSret v &&& ~~~c.mstatusVaries = v &&& ~~~c.mstatusVaries := by
  obtain ⟨hSIE, hSPIE, hSPP⟩ := Config.mstatusVaries_supervisor h
  unfold statusSret
  rw [putBit_and_not _ _ (by decide) hSPP, putBit_and_not _ _ (by decide) hSPIE, putBit_and_not _ _ (by decide) hSIE]

theorem legalMstatus_and_not {c : Config} {mask : Word} (old v : Word) (h : within mask c.mstatusVaries) :
    legalMstatus c old (merge old v mask) &&& ~~~c.mstatusVaries = old &&& ~~~c.mstatusVaries := by
  unfold legalMstatus
  split
  · exact merge_and_not _ _ h
  · rw [putMpp_and_not _ _ c.within_mpp, merge_and_not _ _ h]

/-! ## The hardwired fields -/

/-- The machine interrupt bits are among those `mie` and `mip` hold (R78, R88). -/
theorem interruptMask_machine (S : Bool) :
    (if S then 0xAAA#64 else 0x888#64).getLsbD 3 = true ∧ (if S then 0xAAA#64 else 0x888#64).getLsbD 7 = true := by
  cases S <;> decide

/-- The secondary cause has four bits (R143). -/
theorem Config.within_secondary (c : Config) (e : TrapEvent) : within (c.secondary e) 0xF#64 := by
  have hz (k : BitVec 4) : within (zext k) 0xF#64 := by
    apply BitVec.eq_of_getLsbD_eq
    intro j hj
    by_cases h : j < 4
    · interval_cases j <;> simp [zext]
    · simp [zext, BitVec.getLsbD_of_ge k j (by omega)]
  unfold Config.secondary
  split <;> exact hz _

theorem within_refl (m : Word) : within m m := by simp [within]

section
variable (s : State) (byHost : Bool)

/-! The write masks of the CSRs with hardwired fields leave those fields out, for an instruction and for the host (R65,
R522). -/

theorem State.within_maskFor_mstatus : within (s.maskFor byHost .mstatus) s.cfg.mstatusVaries := by
  cases byHost <;> exact s.cfg.within_mstatusMask

theorem State.within_maskFor_sstatus (h : s.cfg.extS = true) :
    within (s.maskFor byHost .sstatus) s.cfg.mstatusVaries := by
  cases byHost <;> exact Config.within_sstatusMask h

theorem State.within_maskFor_medeleg (h : s.cfg.extS = true) :
    within (s.maskFor byHost .medeleg) (maskIf s.cfg.extS 0xB3FF#64) := by
  rw [h]
  cases byHost <;> exact within_refl _

theorem State.within_maskFor_mideleg (h : s.cfg.extS = true) :
    within (s.maskFor byHost .mideleg) (maskIf s.cfg.extS 0x222#64) := by
  rw [h]
  cases byHost <;> exact within_refl _

theorem State.within_maskFor_mie :
    within (s.maskFor byHost .mie) (if s.cfg.extS then 0xAAA#64 else 0x888#64) := by
  cases byHost <;> exact within_refl _

theorem State.within_maskFor_sie (h : s.cfg.extS = true) :
    within (s.maskFor byHost .sie) (if s.cfg.extS then 0xAAA#64 else 0x888#64) := by
  rw [h]
  cases byHost <;> exact within_and _ (show within 0x222#64 0xAAA#64 from rfl)

theorem State.within_maskFor_mip :
    within (s.maskFor byHost .mip) (if s.cfg.extS then 0xAAA#64 else 0x888#64) := by
  cases byHost with
  | true => exact within_refl _
  | false =>
    show within (if s.cfg.extS then 0x222#64 else 0#64) _
    cases s.cfg.extS <;> rfl

theorem State.within_maskFor_sip (h : s.cfg.extS = true) :
    within (s.maskFor byHost .sip) (if s.cfg.extS then 0xAAA#64 else 0x888#64) := by
  rw [h]
  cases byHost <;> exact within_and _ (show within 0x2#64 0xAAA#64 from rfl)

theorem State.maskFor_mtvec_reserved : (s.maskFor byHost .mtvec).getLsbD 1 = false := by
  have hm : s.maskFor byHost .mtvec = 0xFFFFFFFFFFFFFFFD#64 := by cases byHost <;> rfl
  rw [hm]
  decide

theorem State.maskFor_stvec_reserved : (s.maskFor byHost .stvec).getLsbD 1 = false := by
  have hm : s.maskFor byHost .stvec = 0xFFFFFFFFFFFFFFFD#64 := by cases byHost <;> rfl
  rw [hm]
  decide

theorem State.within_maskFor_mscause : within (s.maskFor byHost .mscause) 0xF#64 := by
  cases byHost <;> exact within_refl _

end

theorem merge_getLsbD {old mask : Word} {j : Nat} (new : Word) (hm : mask.getLsbD j = false)
    (h : old.getLsbD j = false) : (merge old new mask).getLsbD j = false := by
  rw [getLsbD_merge, hm]
  exact h

/-- A write, by an instruction or by the host, of a CSR that exists keeps the hardwired fields. -/
theorem State.Reserved.csrStore {s : State} (hs : s.Reserved) (byHost : Bool) {r : Csr} (v : Word)
    (hr : r.present s.cfg = true) : (s.csrStore byHost r v).Reserved := by
  cases r with
  | mstatus =>
    exact { hs with mstatus := (legalMstatus_and_not _ v (s.within_maskFor_mstatus byHost)).trans hs.mstatus }
  | sstatus => exact { hs with mstatus := (merge_and_not _ v (s.within_maskFor_sstatus byHost hr)).trans hs.mstatus }
  | medeleg => exact { hs with medeleg := hs.medeleg.merge v (s.within_maskFor_medeleg byHost hr) }
  | mideleg => exact { hs with mideleg := hs.mideleg.merge v (s.within_maskFor_mideleg byHost hr) }
  | mie => exact { hs with mie := hs.mie.merge v (s.within_maskFor_mie byHost) }
  | sie => exact { hs with mie := hs.mie.merge v (s.within_maskFor_sie byHost hr) }
  | mip => exact { hs with mip := hs.mip.merge v (s.within_maskFor_mip byHost) }
  | sip => exact { hs with mip := hs.mip.merge v (s.within_maskFor_sip byHost hr) }
  | mtvec => exact { hs with mtvec := merge_getLsbD v (s.maskFor_mtvec_reserved byHost) hs.mtvec }
  | stvec => exact { hs with stvec := merge_getLsbD v (s.maskFor_stvec_reserved byHost) hs.stvec }
  | mscause => exact { hs with mscause := hs.mscause.merge v (s.within_maskFor_mscause byHost) }
  | pmpaddr | tselect => simp only [State.csrStore]; split <;> exact { hs with }
  | tdata1 => obtain ⟨ts, -, h⟩ := s.csrStore_slots byHost v (.inl rfl); rw [h]; exact { hs with }
  | tdata2 => obtain ⟨ts, -, h⟩ := s.csrStore_slots byHost v (.inr rfl); rw [h]; exact { hs with }
  | _ => exact { hs with }

theorem Effect.reserved {s t : State} (h : Effect s t) (hs : s.Reserved) : t.Reserved := by
  cases h with
  | csrStore r v hr => exact hs.csrStore false v hr
  | enterM e p _ =>
    exact { hs with
      mstatus := (statusToM_and_not s.cfg _ _).trans hs.mstatus
      mscause := s.cfg.within_secondary e }
  | enterS e hS => exact { hs with mstatus := (statusToS_and_not hS _ _).trans hs.mstatus }
  | returnM => exact { hs with mstatus := (statusMret_and_not s.cfg _).trans hs.mstatus }
  | returnS hS => exact { hs with mstatus := (statusSret_and_not hS _).trans hs.mstatus }
  | inputs msip mtip =>
    obtain ⟨h3, h7⟩ := interruptMask_machine s.cfg.extS
    exact { hs with mip := (hs.mip.putBit msip (by decide) h3).putBit mtip (by decide) h7 }
  | _ => exact { hs with }

/-! ## The bounds -/

theorem pushBounded_length {α : Type} (depth : Nat) (q : List α) (e : α) : (pushBounded depth q e).length ≤ depth := by
  simp only [pushBounded, List.length_drop]
  omega

theorem invalidateLoads_length (r : Option Reg) (q : List LoadEntry) : (invalidateLoads r q).length = q.length := by
  cases r <;> simp [invalidateLoads]

theorem State.loadQueueAfter_length {s : State} (h : s.loadQueue.length ≤ s.cfg.loadQueueDepth) :
    s.loadQueueAfter.length ≤ s.cfg.loadQueueDepth := by
  unfold State.loadQueueAfter
  dsimp only
  split
  · rwa [invalidateLoads_length]
  · split
    · exact pushBounded_length _ _ _
    · rwa [invalidateLoads_length]

/-- A load queue that is off stays empty. -/
theorem State.loadQueueAfter_off {s : State} (hoff : s.cfg.loadQueueEnabled = false) (h : s.loadQueue = []) :
    s.loadQueueAfter = [] := by
  have hq : invalidateLoads s.ctx.wroteX s.loadQueue = [] :=
    List.eq_nil_of_length_eq_zero (by rw [invalidateLoads_length, h]; rfl)
  unfold State.loadQueueAfter
  dsimp only
  split
  · exact hq
  · rw [if_neg (by simp [hoff])]; exact hq

theorem State.storeQueueAfter_length {s : State} (h : s.storeQueue.length ≤ s.cfg.storeQueueDepth) :
    s.storeQueueAfter.length ≤ s.cfg.storeQueueDepth := by
  unfold State.storeQueueAfter
  split
  · exact h
  · exact pushBounded_length _ _ _

theorem State.Bounded.csrStore {s : State} (hs : s.Bounded) (byHost : Bool) (r : Csr) (v : Word) :
    (s.csrStore byHost r v).Bounded := by
  cases r with
  | tselect =>
    simp only [State.csrStore]
    split
    · next h => exact { hs with tselect := .inl h }
    · exact hs
  | pmpaddr => simp only [State.csrStore]; split <;> exact { hs with }
  | tdata1 =>
    obtain ⟨ts, hl, h⟩ := s.csrStore_slots byHost v (.inl rfl)
    rw [h]
    exact { hs with slots := hl.trans hs.slots }
  | tdata2 =>
    obtain ⟨ts, hl, h⟩ := s.csrStore_slots byHost v (.inr rfl)
    rw [h]
    exact { hs with slots := hl.trans hs.slots }
  | _ => exact { hs with }

theorem Effect.bounded {s t : State} (h : Effect s t) (hs : s.Bounded) : t.Bounded := by
  cases h with
  | slots ts hl => exact { hs with slots := hl.trans hs.slots }
  | commit =>
    exact { hs with
      loadDepth := State.loadQueueAfter_length hs.loadDepth
      loadOff := fun hoff => State.loadQueueAfter_off hoff (hs.loadOff hoff)
      storeDepth := State.storeQueueAfter_length hs.storeDepth }
  | csrStore r v _ => exact hs.csrStore false r v
  | _ => exact { hs with }

/-! ## The idle flags -/

/-- A halted hart has no halt request and no single step pending, and a hart is done exactly when it has a reason. -/
def State.FlagsIdle (s : State) : Prop :=
  (s.debugMode = true → s.debugHaltPending = false ∧ s.stepPending = false) ∧ s.done = s.stopReason.isSome

theorem Effect.flagsIdle {s t : State} (h : Effect s t) (hs : s.FlagsIdle) : t.FlagsIdle := by
  cases h with
  | enterDebug c p => exact ⟨fun _ => ⟨rfl, rfl⟩, hs.2⟩
  | stop r => exact ⟨hs.1, rfl⟩
  | csrStore r v _ => simpa [State.FlagsIdle] using hs
  | _ => exact hs

/-- Settles O52: every effect keeps the fields, the bounds and the flags, and a step drops its context. -/
theorem stepKeepsFieldsAndBounds : Obligations.StepKeepsFieldsAndBounds := by
  intro s t hs hr hb hi h
  obtain ⟨he, hctx⟩ := step_effects hs h
  obtain ⟨hhalted, hdone⟩ := he.keeps Effect.flagsIdle ⟨hi.halted, hi.done⟩
  refine ⟨he.keeps Effect.reserved hr, he.keeps Effect.bounded hb, ?_, hhalted, hdone⟩
  rcases hctx with hc | hc
  · rw [hc, hi.ctx]
  · exact hc

end Sys2Proof.Machine
end

section
/-! What a write stores in `mstatus` and its views, the PMP registers, `satp`, `tselect` and `mdeau` (10_state R70, R71,
R90 to R92, R121, R122, R129, R130, R135, R144). -/

namespace Sys2Proof.Machine

/-! ## `mstatus` and the supervisor views -/

/-- Legalisation touches only MPP. -/
theorem getLsbD_legalMstatus (c : Config) (old new : Word) {j : Nat} (h0 : j ≠ 11) (h1 : j ≠ 12) :
    (legalMstatus c old new).getLsbD j = new.getLsbD j := by
  unfold legalMstatus
  split
  · rfl
  · rw [getLsbD_putMpp, if_neg h0, if_neg h1]

/-- A legal MPP is taken, an illegal one keeps the old (R71). -/
theorem mppOf_legalMstatus (c : Config) (old new : Word) :
    mppOf (legalMstatus c old new) = if c.modeLegal (mppOf new) then mppOf new else mppOf old := by
  unfold legalMstatus
  split
  · rfl
  · exact mppOf_putMpp _ _

/-- MPP is writable exactly where there is a user mode (R70). -/
theorem mppOf_merge_mstatusMask (c : Config) (old v : Word) :
    mppOf (merge old v c.mstatusMask) = if c.extU then mppOf v else mppOf old := by
  have hm : c.mstatusMask.getLsbD 11 = c.extU ∧ c.mstatusMask.getLsbD 12 = c.extU := by
    unfold Config.mstatusMask
    cases c.extU <;> cases c.extS <;> decide
  split
  · next hU => exact mppOf_congr (by rw [getLsbD_merge, hm.1, hU]; rfl) (by rw [getLsbD_merge, hm.2, hU]; rfl)
  · next hU =>
    have hU : c.extU = false := by simpa using hU
    exact mppOf_merge old v (hm.1.trans hU) (hm.2.trans hU)

theorem Config.modeLegal_iff (c : Config) (p : BitVec 2) :
    c.modeLegal p = true ↔ p = 3#2 ∨ (p = 0#2 ∧ c.extU = true) ∨ (p = 1#2 ∧ c.extS = true) := by
  unfold Config.modeLegal Priv.ofCode
  have hp : p = 0#2 ∨ p = 1#2 ∨ p = 2#2 ∨ p = 3#2 := by
    have := p.isLt
    simp only [BitVec.toNat_eq, BitVec.toNat_ofNat]
    omega
  rcases hp with rfl | rfl | rfl | rfl <;> simp [Config.privLegal]

/-- Settles O26: the write is a merge under the configuration's mask and a legalisation of MPP. -/
theorem statusWriteAndViewRules : Obligations.StatusWriteAndViewRules := by
  refine ⟨fun s v => ?_, fun s v j => ⟨rfl, rfl, rfl, getLsbD_merge .., getLsbD_merge .., getLsbD_merge ..⟩⟩
  have hmpp : mppOf (s.csrStore false .mstatus v).csr.mstatus = _ :=
    mppOf_legalMstatus s.cfg s.csr.mstatus (merge s.csr.mstatus v s.cfg.mstatusMask)
  rw [mppOf_merge_mstatusMask] at hmpp
  refine ⟨fun j h0 h1 => ?_, fun hU hv => ?_, fun hv hU => ?_, fun hU h3 => ?_, rfl⟩
  · exact (getLsbD_legalMstatus _ _ _ h0 h1).trans (getLsbD_merge ..)
  · have hl : s.cfg.modeLegal (mppOf v) = true :=
      (s.cfg.modeLegal_iff _).2 (hv.imp_right (Or.imp_left fun h => ⟨h, hU⟩))
    rwa [if_pos hU, if_pos hl] at hmpp
  · have hl : ¬ s.cfg.modeLegal (mppOf v) = true := by
      rw [Config.modeLegal_iff, mppOf]
      rcases hv with h | ⟨h, hS⟩ <;> simp [*]
    rwa [if_pos hU, if_neg hl] at hmpp
  · simpa [hU, h3] using hmpp

/-! ## PMP registers -/

/-- The bytes of the value that a list of bytes is the little-endian form of (R208). -/
theorem extractLsb'_leValue {bs : List Byte} {i : Nat} (hi : i < bs.length) (h8 : bs.length ≤ 8) :
    (leValue bs).extractLsb' (8 * i) 8 = bs[i] := by
  induction bs generalizing i with
  | nil => simp at hi
  | cons b t ih =>
    simp only [List.length_cons] at hi h8
    apply BitVec.eq_of_getLsbD_eq
    intro j hj
    have h64 : 8 * i + j < 64 := by omega
    simp only [BitVec.getLsbD_extractLsb', hj, decide_true, Bool.true_and, leValue, BitVec.getLsbD_or,
      BitVec.getLsbD_shiftLeft, BitVec.getLsbD_setWidth, h64]
    cases i with
    | zero => simp [hj]
    | succ i =>
      have hb := congrArg (·.getLsbD j) (ih (i := i) (by omega) (by omega))
      simp only [BitVec.getLsbD_extractLsb', hj, decide_true, Bool.true_and] at hb
      rw [BitVec.getLsbD_of_ge b _ (by omega), Bool.or_false, List.getElem_cons_succ, ← hb,
        show 8 * (i + 1) + j - 8 = 8 * i + j by omega]
      simp [show ¬ 8 * (i + 1) + j < 8 by omega]

/-- The eight entries of a PMP configuration register, one by one (R90). -/
theorem extractLsb'_legalPmpcfg (c : Config) (first : Nat) (old new : Word) {i : Nat} (hi : i < 8) :
    (legalPmpcfg c first old new).extractLsb' (8 * i) 8 = if first + i < c.pmpEntries
      then legalPmpByte (old.extractLsb' (8 * i) 8) (new.extractLsb' (8 * i) 8) else 0#8 := by
  unfold legalPmpcfg
  rw [extractLsb'_leValue (by simpa) (by simp)]
  simp

theorem extractLsb'_pmpcfgMask (c : Config) (first : Nat) {i : Nat} (hi : i < 8) :
    (c.pmpcfgMask first).extractLsb' (8 * i) 8 = if first + i < c.pmpEntries then 0x9F#8 else 0#8 := by
  unfold Config.pmpcfgMask
  rw [extractLsb'_leValue (by simpa) (by simp)]
  simp

theorem legalPmpByte_locked {old : Byte} (new : Byte) (h : old.getLsbD 7 = true) : legalPmpByte old new = old := by
  unfold legalPmpByte pmpLocked
  rw [if_pos h]

/-- What an unlocked entry takes: W only with R (R91). -/
theorem getLsbD_legalPmpByte {old : Byte} (new : Byte) (h : old.getLsbD 7 = false) (j : Nat) :
    (legalPmpByte old new).getLsbD j
      = if j = 1 then new.getLsbD 1 && new.getLsbD 0 else new.getLsbD j && (0x9F#8).getLsbD j := by
  unfold legalPmpByte pmpLocked
  simp only [h, Bool.false_eq_true, if_false]
  by_cases hj : j < 8
  -- Bit by bit: the test for W without R decides bit 1 only.
  · interval_cases j <;> split <;> simp_all
  · have hw (b : Byte) : b.getLsbD j = false := BitVec.getLsbD_of_ge b j (by omega)
    rw [hw, hw, if_neg (by omega), Bool.false_and]

/-- The byte of a merge. -/
theorem getLsbD_extractLsb'_merge (old new mask : Word) (i j : Nat) :
    ((merge old new mask).extractLsb' i 8).getLsbD j = if (mask.extractLsb' i 8).getLsbD j
      then (new.extractLsb' i 8).getLsbD j else (old.extractLsb' i 8).getLsbD j := by
  simp only [BitVec.getLsbD_extractLsb', getLsbD_merge]
  by_cases hj : j < 8 <;> simp [hj]

/-- One entry after a write of the register that holds it (R90, R91). -/
theorem pmpByte_written (c : Config) (first : Nat) (old v : Word) {i : Nat} (hi : i < 8) :
    let new := (legalPmpcfg c first old (merge old v (c.pmpcfgMask first))).extractLsb' (8 * i) 8
    let was := old.extractLsb' (8 * i) 8
    let put := v.extractLsb' (8 * i) 8
    (c.pmpEntries ≤ first + i → new = 0#8)
      ∧ (first + i < c.pmpEntries → was.getLsbD 7 = true → new = was)
      ∧ (first + i < c.pmpEntries → was.getLsbD 7 = false →
          (∀ j, j ≠ 1 → new.getLsbD j = (put.getLsbD j && (0x9F#8).getLsbD j))
          ∧ new.getLsbD 1 = (put.getLsbD 1 && put.getLsbD 0)) := by
  intro new was put
  have hnew : new = _ := extractLsb'_legalPmpcfg c first old _ hi
  refine ⟨fun h => ?_, fun h hl => ?_, fun h hl => ?_⟩
  · rw [hnew, if_neg (by omega)]
  · rw [hnew, if_pos h, legalPmpByte_locked _ hl]
  · rw [if_pos h] at hnew
    have hbit (j : Nat) : ((merge old v (c.pmpcfgMask first)).extractLsb' (8 * i) 8).getLsbD j
        = if (0x9F#8).getLsbD j then put.getLsbD j else was.getLsbD j := by
      rw [getLsbD_extractLsb'_merge, extractLsb'_pmpcfgMask c first hi, if_pos h]
    rw [hnew]
    refine ⟨fun j hj => ?_, ?_⟩
    · rw [getLsbD_legalPmpByte _ hl, if_neg hj, hbit]
      cases (0x9F#8).getLsbD j <;> simp
    · rw [getLsbD_legalPmpByte _ hl, if_pos rfl, hbit, hbit]
      rfl

/-- The conditions of R92. -/
theorem State.pmpaddrLocked_iff (s : State) (i : Nat) : s.pmpaddrLocked i = true ↔
    (s.csr.pmpCfgByte i).getLsbD 7 = true ∨ (i + 1 < s.cfg.pmpEntries ∧ (s.csr.pmpCfgByte (i + 1)).getLsbD 7 = true
      ∧ (s.csr.pmpCfgByte (i + 1)).extractLsb' 3 2 = 1#2) := by
  simp [State.pmpaddrLocked, pmpLocked, pmpA, and_assoc]

/-- The low `n` bits set. -/
theorem getLsbD_ones (n j : Nat) : (BitVec.ofNat 64 (2 ^ n - 1)).getLsbD j = decide (j < 64 ∧ j < n) := by
  rw [BitVec.getLsbD_ofNat, Nat.testBit_two_pow_sub_one, Bool.decide_and]

/-- Settles O27: the write goes entry by entry, and an address write by the lock of its entry and the next. -/
theorem pmpRegisterWriteRules : Obligations.PmpRegisterWriteRules := by
  refine ⟨fun s v first i r hr hi => ?_, fun s v i => ?_⟩
  · rcases hr with ⟨rfl, rfl⟩ | ⟨rfl, rfl⟩ <;> exact pmpByte_written s.cfg _ _ v hi
  · intro cfg stuck new
    have hs : s.pmpaddrLocked i.val = true ↔ stuck := s.pmpaddrLocked_iff i.val
    refine ⟨fun h => ?_, fun h j => ?_⟩
    · simp only [new, State.csrStore, if_pos (hs.2 h)]
    · have hm : s.maskFor false (.pmpaddr i) = BitVec.ofNat 64 (2 ^ 54 - 1) := rfl
      simp only [new, State.csrStore, if_neg (mt hs.1 h), Vector.getElem_set_self, getLsbD_merge, hm, getLsbD_ones]
      simp [show j < 64 ∧ j < 54 ↔ j < 54 by omega]

/-! ## `satp`, `tselect`, `mdeau` -/

theorem merge_allOnes (old new : Word) : merge old new allOnes = new := by
  unfold merge
  rw [show allOnes = BitVec.allOnes 64 from rfl, BitVec.not_allOnes, BitVec.and_zero, BitVec.and_allOnes,
    BitVec.zero_or]

/-- The bits of `satp` that a supported mode takes: MODE, the low ASIDLEN bits of ASID, and PPN (R130). -/
theorem getLsbD_satpMask (n j : Nat) :
    (0xF0000FFFFFFFFFFF#64 ||| (BitVec.ofNat 64 (2 ^ n - 1) <<< 44)).getLsbD j
      = decide (j < 64 ∧ (j < 44 ∨ (44 ≤ j ∧ j < 44 + n) ∨ 60 ≤ j)) := by
  have hc : 0xF0000FFFFFFFFFFF#64 = BitVec.ofNat 64 (2 ^ 44 - 1) ||| (BitVec.ofNat 64 (2 ^ 4 - 1) <<< 60) := by decide
  rw [hc]
  simp only [BitVec.getLsbD_or, BitVec.getLsbD_shiftLeft, getLsbD_ones]
  rw [Bool.eq_iff_iff]
  simp
  omega

/-- Settles O28: each write by its own rule. -/
theorem specialWritesOfSatpTselectMdeau : Obligations.SpecialWritesOfSatpTselectMdeau := by
  intro s v byHost
  have hv : merge s.csr.satp v (s.maskFor byHost .satp) = v := by
    have hm : s.maskFor byHost .satp = allOnes := by cases byHost <;> rfl
    rw [hm, merge_allOnes]
  have hsatp : (s.csrStore byHost .satp v).csr.satp = legalSatp s.cfg s.csr.satp v := by
    simp only [State.csrStore, hv]
  refine ⟨fun h => ?_, fun h _ j hj => ?_, ?_, rfl⟩
  · rw [hsatp, legalSatp, if_neg (by simpa using h)]
  · rw [hsatp, legalSatp, if_pos (by simpa using h), BitVec.getLsbD_and, getLsbD_satpMask]
    simp [hj]
  · simp only [State.csrStore]
    split <;> rfl

end Sys2Proof.Machine
end

section
/-! Memory contents and byte order: a canonical memory is what its reads say, and the bytes of a value, least significant
first, are its low bytes (20_memory R200, R208, R210; log 3). -/

namespace Sys2Proof.Machine

theorem Memory.read_cons (k : Nat) (b : Byte) (t : Memory) (a : Nat) :
    Memory.read ((k, b) :: t) a = if k < a then Memory.read t a else if k = a then b else Memory.unlisted := rfl

theorem Memory.read_head (k : Nat) (b : Byte) (t : Memory) : Memory.read ((k, b) :: t) k = b := by
  simp [Memory.read_cons]

/-- The first listed address of a canonical memory reads as something that is written there. -/
theorem Memory.read_head_ne {k : Nat} {b : Byte} {t : Memory} (h : Memory.wf ((k, b) :: t)) :
    Memory.read ((k, b) :: t) k ≠ Memory.unlisted := by
  rw [Memory.read_head]
  exact (Memory.wf_cons.1 h).2.1

/-- No address below the first listed one is listed. -/
theorem Memory.read_below {k a : Nat} (b : Byte) (t : Memory) (h : a < k) :
    Memory.read ((k, b) :: t) a = Memory.unlisted := by
  rw [Memory.read_cons, if_neg (by omega), if_neg (by omega)]

theorem Memory.read_tail {k a : Nat} (b : Byte) (t : Memory) (h : k < a) :
    Memory.read ((k, b) :: t) a = Memory.read t a := if_pos h

/-- A canonical memory is determined by what it reads (log 3). -/
theorem Memory.ext_of_read {m n : Memory} (hm : m.wf) (hn : n.wf) (h : ∀ a, m.read a = n.read a) : m = n := by
  induction m generalizing n with
  | nil =>
    cases n with
    | nil => rfl
    | cons q u => exact absurd (h q.1).symm (Memory.read_head_ne hn)
  | cons p t ih =>
    obtain ⟨k, b⟩ := p
    cases n with
    | nil => exact absurd (h k) (Memory.read_head_ne hm)
    | cons q u =>
      obtain ⟨j, c⟩ := q
      -- The lower of two different first addresses would be listed in one memory only.
      have hkj : k = j := by
        rcases Nat.lt_trichotomy k j with hlt | heq | hlt
        · exact absurd ((h k).trans (Memory.read_below c u hlt)) (Memory.read_head_ne hm)
        · exact heq
        · exact absurd ((h j).symm.trans (Memory.read_below b t hlt)) (Memory.read_head_ne hn)
      subst hkj
      obtain ⟨hta, -, ht⟩ := Memory.wf_cons.1 hm
      obtain ⟨hua, -, hu⟩ := Memory.wf_cons.1 hn
      have hbc : b = c := by simpa only [Memory.read_head] using h k
      have htu : t = u := ih ht hu fun a => by
        by_cases hka : k < a
        · simpa only [Memory.read_tail _ _ hka] using h a
        · have above {m : Memory} (hm : m.above k) : m.above a := fun p hp => lt_of_le_of_lt (by omega) (hm p hp)
          rw [Memory.read_above (above hta), Memory.read_above (above hua)]
      rw [hbc, htu]

/-- A read after a write (R210). -/
theorem Memory.read_write {m : Memory} (h : m.wf) (a b : Nat) (v : Byte) :
    (m.write a v).read b = if b = a then v else m.read b := by
  split
  · next hb => rw [hb, Memory.read_write_same h]
  · next hb => exact Memory.read_write_other h hb v

/-- The bytes of a value assemble to its low bits (R208). -/
theorem getLsbD_leValue_leBytes (n : Nat) (v : Word) (j : Nat) :
    (leValue (leBytes n v)).getLsbD j = (decide (j < 8 * n) && v.getLsbD j) := by
  induction n generalizing v j with
  | zero => simp [leBytes, leValue]
  | succ n ih =>
    by_cases hj : j < 64
    · simp only [leBytes, leValue, BitVec.getLsbD_or, BitVec.getLsbD_shiftLeft, BitVec.getLsbD_setWidth, ih,
        BitVec.getLsbD_ushiftRight, hj, decide_true, Bool.true_and]
      by_cases h8 : j < 8
      · simp [h8, show j < 8 * (n + 1) by omega]
      · simp [h8, show 8 + (j - 8) = j by omega, show j - 8 < 8 * n ↔ j < 8 * (n + 1) by omega]
    · simp [BitVec.getLsbD_of_ge _ j (Nat.le_of_not_lt hj)]

theorem leValue_leBytes (n : Nat) (v : Word) : leValue (leBytes n v) = (v.setWidth (8 * n)).setWidth 64 := by
  apply BitVec.eq_of_getLsbD_eq
  intro j hj
  rw [getLsbD_leValue_leBytes, BitVec.getLsbD_setWidth, BitVec.getLsbD_setWidth, decide_eq_true hj, Bool.true_and]

/-- Settles O23: by induction over the listed addresses, and over the bytes. -/
theorem memoryAndByteOrderLaws : Obligations.MemoryAndByteOrderLaws := by
  refine ⟨⟨fun m a b v hm => ⟨Memory.wf_write hm a v, Memory.read_write hm a b v⟩,
    fun m n hm hn h => Memory.ext_of_read hm hn h⟩, fun n v _ => ⟨leValue_leBytes n v, fun k hk => ?_⟩⟩
  have hl : k < (leBytes n v).length := by rwa [leBytes_length]
  rw [List.getElem?_eq_getElem hl, getElem_leBytes]

end Sys2Proof.Machine
end

section
/-! Access checks where no translation is in force: the parts of an access by page, and what PMP and the memory map
make of them (20_memory R202 to R205, R211, R212, R215, R216; log 18). -/

namespace Sys2Proof.Machine

/-! ## Ranges of addresses and page parts -/

theorem mem_addrRange {a p : Word} {n : Nat} : p ∈ addrRange a n ↔ ∃ k < n, a + BitVec.ofNat 64 k = p := by
  simp [addrRange]

/-- A range in two parts. -/
theorem addrRange_add (a : Word) (m n : Nat) :
    addrRange a (m + n) = addrRange a m ++ addrRange (a + BitVec.ofNat 64 m) n := by
  simp only [addrRange, List.range_add, List.map_append, List.map_map]
  congr 1
  apply List.map_congr_left
  intro k _
  rw [Function.comp_apply, BitVec.ofNat_add, BitVec.add_assoc]

/-- The parts by page are the access's own bytes, in order (R215). -/
theorem pageParts_addrRange (a : Word) (n : Nat) :
    (pageParts a n).flatMap (fun q => addrRange q.1 q.2) = addrRange a n := by
  unfold pageParts
  dsimp only
  split
  · simp
  · rw [List.flatMap_cons, List.flatMap_singleton, ← addrRange_add, Nat.add_sub_cancel' (by omega)]

/-! ## Accesses without translation -/

/-- No translation is in force for accesses at a mode (R203). -/
def State.Untranslated (s : State) (p : Priv) : Prop :=
  s.cfg.extS = false ∨ p = .m ∨ s.csr.satp.extractLsb' 60 4 = 0#4

theorem State.Untranslated.translate {s : State} {p : Priv} (h : s.Untranslated p) (acc : Acc) (v : Word) :
    s.translate acc p v = some v := by
  unfold State.translate
  rw [if_pos]
  rcases h with h | h | h <;> simp [h]

/-- Without translation an access reaches its own bytes when PMP lets every part through, and faults else (R204, R205). -/
theorem State.Untranslated.locateParts {s : State} {p : Priv} (h : s.Untranslated p) (acc : Acc)
    (l : List (Word × Nat)) :
    s.locateParts acc p l = if l.all fun q => s.pmpAllows acc p q.1 q.2 then .ok (l.flatMap fun q => addrRange q.1 q.2)
      else .error acc.accessFault := by
  induction l with
  | nil => rfl
  | cons q t ih =>
    simp only [State.locateParts, h.translate, ih, List.all_cons, List.flatMap_cons]
    cases s.pmpAllows acc p q.1 q.2 <;> cases t.all fun q => s.pmpAllows acc p q.1 q.2 <;> rfl

/-- A byte of plain memory that the memory map lets the access reach (R202, R205). -/
def State.PlainByte (s : State) (acc : Acc) (b : Word) : Prop :=
  s.cfg.inClint b = false ∧ s.cfg.isMmr b.toNat = false ∧ s.cfg.permitted acc b.toNat = true

theorem State.PlainByte.backed {s : State} {acc : Acc} {b : Word} (h : s.PlainByte acc b) :
    s.byteBacked acc b = true := by
  obtain ⟨hc, hm, hp⟩ := h
  simp [State.byteBacked, hc, hm, hp]

theorem State.PlainByte.idempotent {s : State} {acc : Acc} {b : Word} (h : s.PlainByte acc b) :
    s.cfg.nonIdempotent b = false := by
  obtain ⟨hc, hm, -⟩ := h
  simp [Config.nonIdempotent, hc, hm]

theorem State.PlainByte.physByte {s : State} {acc : Acc} {b : Word} (h : s.PlainByte acc b) :
    s.physByte b = s.mem.read b.toNat := by
  obtain ⟨hc, hm, -⟩ := h
  simp [State.physByte, hc, hm]

/-- An access to bytes that are each permitted plain memory succeeds (log 18). -/
theorem State.accessOk_of_plain {s : State} {acc : Acc} {ps : List Word} (h : ∀ b ∈ ps, s.PlainByte acc b) :
    s.accessOk acc ps = true := by
  cases ps with
  | nil => rfl
  | cons p t =>
    have hp : s.cfg.inClint p = false := (h p (.head _)).1
    simp only [State.accessOk, hp, Bool.false_eq_true, if_false]
    exact List.all_eq_true.2 fun b hb => (h b hb).backed

/-! ## The checks of loads and stores -/

/-- A misaligned access under `Trap` raises before any other check (R212). -/
theorem State.locate_trap {s : State} {a : Word} {n : Nat} (acc : Acc) (ha : a.toNat % n ≠ 0)
    (ht : s.cfg.misalignedData = .trap) : s.locate acc a n = .error acc.misaligned := by
  simp [State.locate, aligned, ha, ht]

section
variable {s : State} {acc : Acc} {a : Word} {n : Nat} (h : a.toNat % n = 0 ∨ s.cfg.misalignedData = .split)
include h

theorem not_misaligned_trap : ¬ (!aligned a n && s.cfg.misalignedData == .trap) = true := by
  rcases h with h | h <;> simp [aligned, h]

/-- A part that fails fails the access (R215, R216). -/
theorem State.locate_of_parts_error {e : Exc}
    (he : s.locateParts acc (s.effPriv acc) (pageParts a n) = .error e) : s.locate acc a n = .error e := by
  unfold State.locate
  rw [if_neg (not_misaligned_trap h), he]

/-- What is left to check once every part is located: idempotent bytes for a misaligned access (R212), and that the
bytes are backed (R205). -/
theorem State.locate_of_parts_ok {ps : List Word}
    (hp : s.locateParts acc (s.effPriv acc) (pageParts a n) = .ok ps) :
    s.locate acc a n = if !aligned a n && ps.any s.cfg.nonIdempotent then .error acc.accessFault
      else if s.accessOk acc ps then .ok ps else .error acc.accessFault := by
  unfold State.locate
  rw [if_neg (not_misaligned_trap h), hp]

end

/-- A misaligned access under `Split` to a non-idempotent byte faults (R212). -/
theorem State.locate_nonIdempotent {s : State} {acc : Acc} {a : Word} {n : Nat} {ps : List Word}
    (ha : a.toNat % n ≠ 0) (hs : s.cfg.misalignedData = .split)
    (hp : s.locateParts acc (s.effPriv acc) (pageParts a n) = .ok ps)
    (hn : ∃ p ∈ ps, s.cfg.nonIdempotent p = true) : s.locate acc a n = .error acc.accessFault := by
  rw [State.locate_of_parts_ok (.inr hs) hp, if_pos]
  simpa [aligned, ha] using hn

/-- An access whose located bytes are permitted plain memory passes (R205, R212). -/
theorem State.locate_plain {s : State} {acc : Acc} {a : Word} {n : Nat} {ps : List Word}
    (h : a.toNat % n = 0 ∨ s.cfg.misalignedData = .split)
    (hp : s.locateParts acc (s.effPriv acc) (pageParts a n) = .ok ps) (hb : ∀ b ∈ ps, s.PlainByte acc b) :
    s.locate acc a n = .ok ps := by
  have hi : ps.any s.cfg.nonIdempotent = false := List.any_eq_false.2 fun b m => by simp [(hb b m).idempotent]
  rw [State.locate_of_parts_ok h hp, hi, Bool.and_false, if_neg Bool.false_ne_true, if_pos (State.accessOk_of_plain hb)]

/-- PMP is asked of the whole access where it lies in one page, else of the two parts (R204, R215). -/
theorem pageParts_all (f : Word → Nat → Bool) (a : Word) (n : Nat) :
    (pageParts a n).all (fun q => f q.1 q.2) = (let room := 4096 - a.toNat % 4096
      if n ≤ room then f a n else f a room && f (a + BitVec.ofNat 64 room) (n - room)) := by
  unfold pageParts
  dsimp only
  split <;> simp

/-- Settles O22: the misaligned rule first, then the parts by page under PMP, then the bytes under the memory map. -/
theorem accessCheckRules : Obligations.AccessCheckRules := by
  refine ⟨fun s acc a n _ ha => ⟨State.locate_trap acc ha, fun hs ps => State.locate_nonIdempotent ha hs⟩,
    fun s acc a n _ _ h hu => ?_⟩
  intro room allowed allAllowed
  have hparts : s.locateParts acc (s.effPriv acc) (pageParts a n)
      = if allAllowed then .ok (addrRange a n) else .error acc.accessFault := by
    rw [State.Untranslated.locateParts hu, pageParts_all allowed, pageParts_addrRange]
  refine ⟨fun hno => ?_, fun hall hbytes => ?_⟩
  · exact State.locate_of_parts_error h (hparts.trans (if_neg (ne_true_of_eq_false hno)))
  · refine State.locate_plain h (hparts.trans (if_pos hall)) fun b hb => ?_
    obtain ⟨k, hk, rfl⟩ := mem_addrRange.1 hb
    exact hbytes k hk

end Sys2Proof.Machine
end

section
/-! The bytes of an encoding are the instruction's bits, and the low two bits tell its length (30_encoding R250; 20_memory
R208). -/

namespace Sys2Proof

open Machine

namespace Laws.F

/-- What family `F` says, for every instruction. -/
theorem statement : ∀ i : Instr, Statement i
  | .lui _ _ => lui _ _ | .auipc _ _ => auipc _ _ | .jal _ _ => jal _ _ | .jalr _ _ _ => jalr _ _ _
  | .beq _ _ _ => beq _ _ _ | .bne _ _ _ => bne _ _ _ | .blt _ _ _ => blt _ _ _ | .bge _ _ _ => bge _ _ _
  | .bltu _ _ _ => bltu _ _ _ | .bgeu _ _ _ => bgeu _ _ _ | .lb _ _ _ => lb _ _ _ | .lh _ _ _ => lh _ _ _
  | .lw _ _ _ => lw _ _ _ | .ld _ _ _ => ld _ _ _ | .lbu _ _ _ => lbu _ _ _ | .lhu _ _ _ => lhu _ _ _
  | .lwu _ _ _ => lwu _ _ _ | .sb _ _ _ => sb _ _ _ | .sh _ _ _ => sh _ _ _ | .sw _ _ _ => sw _ _ _
  | .sd _ _ _ => sd _ _ _ | .addi _ _ _ => addi _ _ _ | .slti _ _ _ => slti _ _ _ | .sltiu _ _ _ => sltiu _ _ _
  | .xori _ _ _ => xori _ _ _ | .ori _ _ _ => ori _ _ _ | .andi _ _ _ => andi _ _ _ | .slli _ _ _ => slli _ _ _
  | .srli _ _ _ => srli _ _ _ | .srai _ _ _ => srai _ _ _ | .add _ _ _ => add _ _ _ | .sub _ _ _ => sub _ _ _
  | .sll _ _ _ => sll _ _ _ | .slt _ _ _ => slt _ _ _ | .sltu _ _ _ => sltu _ _ _ | .xor _ _ _ => xor _ _ _
  | .srl _ _ _ => srl _ _ _ | .sra _ _ _ => sra _ _ _ | .or _ _ _ => or _ _ _ | .and _ _ _ => and _ _ _
  | .fence _ _ _ => fence _ _ _ | .fenceI => fenceI | .ecall => ecall | .ebreak => ebreak
  | .addiw _ _ _ => addiw _ _ _ | .slliw _ _ _ => slliw _ _ _ | .srliw _ _ _ => srliw _ _ _
  | .sraiw _ _ _ => sraiw _ _ _ | .addw _ _ _ => addw _ _ _ | .subw _ _ _ => subw _ _ _ | .sllw _ _ _ => sllw _ _ _
  | .srlw _ _ _ => srlw _ _ _ | .sraw _ _ _ => sraw _ _ _ | .mul _ _ _ => mul _ _ _ | .mulh _ _ _ => mulh _ _ _
  | .mulhsu _ _ _ => mulhsu _ _ _ | .mulhu _ _ _ => mulhu _ _ _ | .div _ _ _ => div _ _ _ | .divu _ _ _ => divu _ _ _
  | .rem _ _ _ => rem _ _ _ | .remu _ _ _ => remu _ _ _ | .mulw _ _ _ => mulw _ _ _ | .divw _ _ _ => divw _ _ _
  | .divuw _ _ _ => divuw _ _ _ | .remw _ _ _ => remw _ _ _ | .remuw _ _ _ => remuw _ _ _
  | .csrrw _ _ _ => csrrw _ _ _ | .csrrs _ _ _ => csrrs _ _ _ | .csrrc _ _ _ => csrrc _ _ _
  | .csrrwi _ _ _ => csrrwi _ _ _ | .csrrsi _ _ _ => csrrsi _ _ _ | .csrrci _ _ _ => csrrci _ _ _ | .mret => mret
  | .wfi => wfi | .sret => sret | .sfenceVma _ _ => sfenceVma _ _ | .dret => dret | .cAddi4spn _ _ => cAddi4spn _ _
  | .cLw _ _ _ => cLw _ _ _ | .cLd _ _ _ => cLd _ _ _ | .cSw _ _ _ => cSw _ _ _ | .cSd _ _ _ => cSd _ _ _
  | .cNop _ => cNop _ | .cAddi _ _ => cAddi _ _ | .cAddiw _ _ => cAddiw _ _ | .cLi _ _ => cLi _ _
  | .cAddi16sp _ => cAddi16sp _ | .cLui _ _ => cLui _ _ | .cSrli _ _ => cSrli _ _ | .cSrai _ _ => cSrai _ _
  | .cAndi _ _ => cAndi _ _ | .cSub _ _ => cSub _ _ | .cXor _ _ => cXor _ _ | .cOr _ _ => cOr _ _
  | .cAnd _ _ => cAnd _ _ | .cSubw _ _ => cSubw _ _ | .cAddw _ _ => cAddw _ _ | .cJ _ => cJ _
  | .cBeqz _ _ => cBeqz _ _ | .cBnez _ _ => cBnez _ _ | .cSlli _ _ => cSlli _ _ | .cLwsp _ _ => cLwsp _ _
  | .cLdsp _ _ => cLdsp _ _ | .cJr _ => cJr _ | .cMv _ _ => cMv _ _ | .cEbreak => cEbreak | .cJalr _ => cJalr _
  | .cAdd _ _ => cAdd _ _ | .cSwsp _ _ => cSwsp _ _ | .cSdsp _ _ => cSdsp _ _

end Laws.F

theorem encode_length (i : Instr) : (encode i).length = i.len := (Laws.F.statement i).1

/-- The low two bits of a four-byte instruction, and of no other, are 3 (R250). -/
theorem Instr.low_bits (i : Instr) : i.bits.extractLsb' 0 2 = 3#2 ↔ i.len = 4 := (Laws.F.statement i).2

/-- A compressed instruction is a halfword, zero-extended (R304). -/
theorem Instr.bits_compressed {i : Instr} (h : i.ext = .c) : ∃ w, i.bits = half w := by
  cases i with
  | cAddi4spn | cLw | cLd | cSw | cSd | cNop | cAddi | cAddiw | cLi | cAddi16sp | cLui | cSrli | cSrai | cAndi | cSub
  | cXor | cOr | cAnd | cSubw | cAddw | cJ | cBeqz | cBnez | cSlli | cLwsp | cLdsp | cJr | cMv | cEbreak | cJalr | cAdd
  | cSwsp | cSdsp => exact ⟨_, rfl⟩
  | _ => cases h

/-- The encoding is the little-endian form of the bits (R208). -/
theorem encode_eq_leBytes (i : Instr) : encode i = leBytes i.len (i.bits.setWidth 64) := by
  have byte (j : Nat) : (i.bits.setWidth 64).extractLsb' j 8 = i.bits.extractLsb' j 8 := by
    apply BitVec.eq_of_getLsbD_eq
    intro k hk
    by_cases h : j + k < 64
    · simp [hk, h]
    · simp [hk, h, BitVec.getLsbD_of_ge i.bits (j + k) (by omega)]
  refine List.ext_getElem (by rw [encode_length, leBytes_length]) fun k hk _ => ?_
  rw [getElem_leBytes, byte]
  unfold encode at hk ⊢
  split at hk
  · have : k < 2 := hk
    interval_cases k <;> simp [*]
  · have : k < 4 := hk
    interval_cases k <;> simp [*]

/-- The bytes of an encoding are read as the instruction's bits (R208, R304). -/
theorem bitsOf_encode (i : Instr) : bitsOf (encode i) = i.bits := by
  apply BitVec.eq_of_getLsbD_eq
  intro j hj
  rw [encode_eq_leBytes, bitsOf, BitVec.getLsbD_setWidth, getLsbD_leValue_leBytes, BitVec.getLsbD_setWidth,
    decide_eq_true hj, decide_eq_true (show j < 64 by omega), Bool.true_and, Bool.true_and]
  unfold Instr.len
  split
  · next hc =>
    obtain ⟨w, hw⟩ := Instr.bits_compressed hc
    rw [hw, half, BitVec.getLsbD_append]
    by_cases h : j < 16 <;> simp [h]
  · simp [hj]

/-- The low two bits of fetched bytes are the first byte's. -/
theorem low_bits_bitsOf (b : Byte) (t : List Byte) : (bitsOf (b :: t)).extractLsb' 0 2 = b.extractLsb' 0 2 := by
  apply BitVec.eq_of_getLsbD_eq
  intro j hj
  have h8 : j < 8 := by omega
  simp [bitsOf, leValue, hj, h8, show j < 32 by omega]

/-- The first two bytes of an encoding hold its low two bits (R250). -/
theorem low_bits_take_encode (i : Instr) :
    (bitsOf ((encode i).take 2)).extractLsb' 0 2 = i.bits.extractLsb' 0 2 := by
  have h : (encode i).take 2 = [i.bits.extractLsb' 0 8, i.bits.extractLsb' 8 8] := by
    unfold encode
    split <;> rfl
  rw [h, low_bits_bitsOf]
  apply BitVec.eq_of_getLsbD_eq
  intro j hj
  simp [hj]

end Sys2Proof
end

section
/-! The fetch of the instruction whose encoding stands at the pc (20_memory R204, R205, R208, R214; log 18). -/

namespace Sys2Proof.Machine

/-! ## The encoding in memory -/

/-- The bytes of memory at a range of addresses. -/
def State.bytesFrom (s : State) (a : Word) (n : Nat) : List Byte := (addrRange a n).map fun b => s.mem.read b.toNat

theorem State.bytesFrom_add (s : State) (a : Word) (m n : Nat) :
    s.bytesFrom a (m + n) = s.bytesFrom a m ++ s.bytesFrom (a + BitVec.ofNat 64 m) n := by
  simp only [State.bytesFrom, addrRange_add, List.map_append]

theorem State.bytesFrom_length (s : State) (a : Word) (n : Nat) : (s.bytesFrom a n).length = n := by
  rw [State.bytesFrom, List.length_map, addrRange_length]

theorem State.bytesFrom_take (s : State) (a : Word) {m n : Nat} (h : m ≤ n) :
    (s.bytesFrom a n).take m = s.bytesFrom a m := by
  obtain ⟨k, rfl⟩ := Nat.exists_eq_add_of_le h
  rw [State.bytesFrom_add, List.take_left' (State.bytesFrom_length ..)]

theorem State.bytesFrom_drop (s : State) (a : Word) (m n : Nat) :
    (s.bytesFrom a (m + n)).drop m = s.bytesFrom (a + BitVec.ofNat 64 m) n := by
  rw [State.bytesFrom_add, List.drop_left' (State.bytesFrom_length ..)]

/-- An encoding that stands in memory byte by byte is what memory holds there. -/
theorem State.bytesFrom_of_encode {s : State} {a : Word} {i : Instr}
    (h : ∀ k < i.len, (encode i)[k]? = some (s.mem.read (a + BitVec.ofNat 64 k).toNat)) :
    s.bytesFrom a i.len = encode i := by
  apply List.ext_getElem (by rw [State.bytesFrom_length, encode_length])
  intro k hk hk'
  rw [encode_length] at hk'
  obtain ⟨_, he⟩ := List.getElem?_eq_some_iff.1 (h k hk')
  rw [he]
  simp [State.bytesFrom, addrRange]

/-! ## The parts of a fetch (R214) -/

section
variable {s : State} (hu : s.Untranslated s.priv) {b : Word} {n : Nat}
include hu

/-- PMP refuses a part of a fetch (R204). -/
theorem State.fetchBytes_refused (hp : s.pmpAllows .fetch s.priv b n = false) :
    s.fetchBytes b n = .error .instrAccess := by
  simp [State.fetchBytes, hu.locateParts, hp, Acc.accessFault]

/-- A part of a fetch that PMP lets through reads permitted plain memory (R205, R208). -/
theorem State.fetchBytes_plain (hp : s.pmpAllows .fetch s.priv b n = true)
    (hb : ∀ k < n, s.PlainByte .fetch (b + BitVec.ofNat 64 k)) : s.fetchBytes b n = .ok (s.bytesFrom b n) := by
  have hb : ∀ a ∈ addrRange b n, s.PlainByte .fetch a := fun a ha => by
    obtain ⟨k, hk, rfl⟩ := mem_addrRange.1 ha
    exact hb k hk
  have hm : (addrRange b n).map s.physByte = s.bytesFrom b n := List.map_congr_left fun a ha => (hb a ha).physByte
  simp [State.fetchBytes, hu.locateParts, hp, State.accessOk_of_plain hb, hm]

end

section
variable {s : State} {a : Word}

/-- The first part is a halfword with C, else the word. -/
theorem State.fetch_first_error {e : Exc} (h : s.fetchBytes a (if s.cfg.extC then 2 else 4) = .error e) :
    s.fetch a = .fault e a := by
  unfold State.fetch
  split at h <;> simp [*]

theorem State.fetch_word {bs : List Byte} (hc : s.cfg.extC = false) (h : s.fetchBytes a 4 = .ok bs) :
    s.fetch a = .ok (bitsOf bs) 4 := by
  simp [State.fetch, hc, h]

variable {lo : List Byte} (hc : s.cfg.extC = true) (h : s.fetchBytes a 2 = .ok lo)
include hc h

theorem State.fetch_half (hl : (bitsOf lo).extractLsb' 0 2 ≠ 3#2) : s.fetch a = .ok (bitsOf lo) 2 := by
  simp only [State.fetch, hc, h, if_pos, if_pos hl]

variable (hl : (bitsOf lo).extractLsb' 0 2 = 3#2)
include hl

theorem State.fetch_second_error {e : Exc} (he : s.fetchBytes (a + 2#64) 2 = .error e) :
    s.fetch a = .fault e (a + 2#64) := by
  simp [State.fetch, hc, h, hl, he]

theorem State.fetch_two_halves {hi : List Byte} (hh : s.fetchBytes (a + 2#64) 2 = .ok hi) :
    s.fetch a = .ok (bitsOf (lo ++ hi)) 4 := by
  simp [State.fetch, hc, h, hl, hh]

end

/-! ## The fetch of an encoding -/

section
variable {s : State} {i : Instr} (hu : s.Untranslated s.priv) (hext : s.cfg.hasExt i.ext = true)
  (hplain : ∀ k < i.len, s.PlainByte .fetch (s.pc + BitVec.ofNat 64 k)) (henc : s.bytesFrom s.pc i.len = encode i)
include hu hext hplain henc

/-- Without C the fetch reads the word. -/
theorem State.fetch_encoding_word (hc : s.cfg.extC = false) (hp : s.pmpAllows .fetch s.priv s.pc 4 = true) :
    s.fetch s.pc = .ok i.bits i.len := by
  have hlen : i.len = 4 := (Instr.len_of_hasExt hext).resolve_right (by simp [hc])
  rw [hlen] at henc hplain
  rw [State.fetch_word hc (State.fetchBytes_plain hu hp hplain), henc, bitsOf_encode, hlen]

/-- With C the fetch reads the first halfword. -/
theorem State.fetchBytes_first_half (hp : s.pmpAllows .fetch s.priv s.pc 2 = true) :
    s.fetchBytes s.pc 2 = .ok ((encode i).take 2) := by
  have hlen : 2 ≤ i.len := by rcases Instr.len_of_hasExt hext with h | ⟨h, -⟩ <;> omega
  rw [← henc, State.bytesFrom_take _ _ hlen]
  exact State.fetchBytes_plain hu hp fun k hk => hplain k (by omega)

omit hext in
/-- The second halfword of four bytes. -/
theorem State.fetchBytes_second_half (h4 : i.len = 4) (hp : s.pmpAllows .fetch s.priv (s.pc + 2#64) 2 = true) :
    s.fetchBytes (s.pc + 2#64) 2 = .ok ((encode i).drop 2) := by
  rw [← henc, h4, State.bytesFrom_drop s s.pc 2 2]
  refine State.fetchBytes_plain hu hp fun k hk => ?_
  rw [BitVec.add_assoc, ← BitVec.ofNat_add]
  exact hplain (2 + k) (by omega)

/-- With C the low two bits of the first halfword tell whether a second is read (R250). -/
theorem State.fetch_encoding_halves (hc : s.cfg.extC = true) (hp : s.pmpAllows .fetch s.priv s.pc 2 = true) :
    (i.len = 4 → s.pmpAllows .fetch s.priv (s.pc + 2#64) 2 = false →
        s.fetch s.pc = .fault .instrAccess (s.pc + 2#64))
      ∧ ((i.len = 4 → s.pmpAllows .fetch s.priv (s.pc + 2#64) 2 = true) → s.fetch s.pc = .ok i.bits i.len) := by
  have hlo := State.fetchBytes_first_half hu hext hplain henc hp
  have hlow := low_bits_take_encode i
  by_cases h4 : i.len = 4
  · rw [i.low_bits.2 h4] at hlow
    refine ⟨fun _ hno => State.fetch_second_error hc hlo hlow (State.fetchBytes_refused hu hno), fun hyes => ?_⟩
    have hhi := State.fetchBytes_second_half hu hplain henc h4 (hyes h4)
    rw [State.fetch_two_halves hc hlo hlow hhi, List.take_append_drop, bitsOf_encode, h4]
  · obtain ⟨h2, -⟩ := (Instr.len_of_hasExt hext).resolve_left h4
    refine ⟨fun h => absurd h h4, fun _ => ?_⟩
    rw [State.fetch_half hc hlo fun h => h4 (i.low_bits.1 (hlow.symm.trans h)),
      List.take_of_length_le (by rw [encode_length, h2]), bitsOf_encode, h2]

end

/-- Settles O5: each part of the fetch reads its part of the encoding, and the low two bits tell whether there is a
second. -/
theorem fetchReadsTheInstructionAtThePc : Obligations.FetchReadsTheInstructionAtThePc := by
  intro s i _ hext hu pmp
  have hu : s.Untranslated s.priv := hu
  refine ⟨fun hno => State.fetch_first_error (State.fetchBytes_refused hu hno), fun hbytes hyes => ?_⟩
  have hplain (k : Nat) (hk : k < i.len) : s.PlainByte .fetch (s.pc + BitVec.ofNat 64 k) :=
    let ⟨hclint, hmmr, hpermitted, _⟩ := hbytes k hk
    ⟨hclint, hmmr, hpermitted⟩
  have henc : s.bytesFrom s.pc i.len = encode i := State.bytesFrom_of_encode fun k hk =>
    let ⟨_, _, _, hread⟩ := hbytes k hk
    hread
  cases hc : s.cfg.extC with
  | false =>
    rw [hc] at hyes
    exact ⟨fun hhalf => absurd hhalf.1 Bool.false_ne_true,
      fun _ => State.fetch_encoding_word hu hext hplain henc hc hyes⟩
  | true =>
    rw [hc] at hyes
    obtain ⟨hrefused, hread⟩ := State.fetch_encoding_halves hu hext hplain henc hc hyes
    exact ⟨fun hhalf => hrefused hhalf.2, fun h => hread fun h4 => h ⟨rfl, h4⟩⟩

end Sys2Proof.Machine
end

section
/-! Harts of one system: what a hart reads of a CSR after another hart's action, and after a reset beside others
(10_state R67; 60_exceptions R714, R725; 70_reset_and_hazards R831; logs 15, 19). -/

namespace Sys2Proof.Machine

/-! ## CSR numbers -/

/-- What a search by number answers, if anything, bears the number. -/
def Numbered (n : Nat) (o : Option Csr) : Prop := ∀ r, o = some r → r.num.toNat = n

theorem numbered_none (n : Nat) : Numbered n none := nofun

/-- One row of the search. -/
theorem Numbered.row {n k : Nat} {r : Csr} {o : Option Csr} (hr : r.num.toNat = k) (ho : Numbered n o) :
    Numbered n (if n = k then some r else o) := by
  split
  · next h => rintro _ ⟨⟩; rw [hr, h]
  · exact ho

/-- A range of rows, counted from its first number. -/
theorem Numbered.rows {n lo hi : Nat} {r : lo ≤ n ∧ n ≤ hi → Csr} {o : Option Csr}
    (hr : ∀ h, (r h).num = BitVec.ofNat 12 (lo + (n - lo))) (hhi : hi < 4096) (ho : Numbered n o) :
    Numbered n (if h : lo ≤ n ∧ n ≤ hi then some (r h) else o) := by
  split
  · next h =>
    rintro _ ⟨⟩
    rw [hr h, BitVec.toNat_ofNat, Nat.add_sub_cancel' h.1, Nat.mod_eq_of_lt (by omega)]
  · exact ho

theorem numbered_ofNumS (n : Nat) : Numbered n (Csr.ofNumS n) := by
  unfold Csr.ofNumS
  repeat refine .row rfl ?_
  exact numbered_none n

theorem numbered_ofNumM (n : Nat) : Numbered n (Csr.ofNumM n) := by
  unfold Csr.ofNumM
  repeat refine .row rfl ?_
  refine .rows (fun _ => rfl) (by decide) ?_
  repeat refine .row rfl ?_
  exact .rows (fun _ => rfl) (by decide) (numbered_none n)

theorem numbered_ofNumHigh (n : Nat) : Numbered n (Csr.ofNumHigh n) := by
  unfold Csr.ofNumHigh
  repeat refine .row rfl ?_
  refine .rows (fun _ => rfl) (by decide) ?_
  repeat refine .row rfl ?_
  refine .rows (fun _ => rfl) (by decide) ?_
  repeat refine .row rfl ?_
  exact numbered_none n

/-- The CSR found by a number has that number (R64, R69). -/
theorem Csr.num_of_ofNum {n : CsrNum} {r : Csr} (h : Csr.ofNum n = some r) : r.num = n := by
  apply BitVec.eq_of_toNat_eq
  unfold Csr.ofNum at h
  split at h
  · exact numbered_ofNumS _ r h
  · split at h
    · exact numbered_ofNumM _ r h
    · exact numbered_ofNumHigh _ r h

/-! ## CSRs that hold one value of their own -/

section
variable {r : Csr} (hr : r ∈ plainCsrs)
include hr

theorem ofNum_num_of_plain : Csr.ofNum r.num = some r := by
  revert r
  decide

/-- A plain CSR reads its own place in the CSR file. -/
theorem csrRead_congr_of_plain {s t : State} (h : s.csr = t.csr) : s.csrRead r = t.csrRead r := by
  fin_cases hr <;> simp only [State.csrRead, h]

/-- A plain CSR is shared as it is read. -/
theorem changed_of_plain (s u : State) : r.changed s u = (s.csrRead r != u.csrRead r) := by
  fin_cases hr <;> rfl

/-- Sharing a CSR that both have gives a plain CSR the other's value when it is that CSR, and keeps it else. -/
theorem csrRead_shareCsr_of_present (q : Csr) {src dst : State}
    (hp : (q.present src.cfg && q.present dst.cfg) = true) :
    (State.shareCsr q src dst).csrRead r = if q = r then src.csrRead r else dst.csrRead r := by
  unfold State.shareCsr
  rw [if_pos hp]
  fin_cases hr <;> cases q <;> rfl

theorem csrRead_shareCsr (q : Csr) (src dst : State) : (State.shareCsr q src dst).csrRead r
    = if q = r ∧ r.present dst.cfg = true ∧ r.present src.cfg = true then src.csrRead r else dst.csrRead r := by
  by_cases hp : (q.present src.cfg && q.present dst.cfg) = true
  · rw [csrRead_shareCsr_of_present hr q hp]
    obtain ⟨hs, hd⟩ := Bool.and_eq_true_iff.1 hp
    by_cases hq : q = r
    · subst hq
      rw [if_pos rfl, if_pos ⟨rfl, hd, hs⟩]
    · rw [if_neg hq, if_neg fun h => hq h.1]
  · have hkeep : State.shareCsr q src dst = dst := if_neg hp
    rw [hkeep, if_neg]
    rintro ⟨rfl, hd, hs⟩
    exact hp (by rw [hs, hd]; rfl)

/-- A plain CSR after sharing a list: the other's value when it is listed and both have it. -/
theorem csrRead_shareAll (src : State) (l : List CsrNum) (dst : State) : (src.shareAll l dst).csrRead r
    = if r.num ∈ l ∧ r.present dst.cfg = true ∧ r.present src.cfg = true then src.csrRead r else dst.csrRead r := by
  induction l generalizing dst with
  | nil => simp
  | cons n t ih =>
    simp only [State.shareAll, List.mem_cons]
    cases hq : Csr.ofNum n with
    | none =>
      have hn : r.num ≠ n := by
        rintro rfl
        rw [ofNum_num_of_plain hr] at hq
        cases hq
      simp only [ih, hn, false_or]
    | some q =>
      have hqr : q = r ↔ r.num = n := by
        constructor
        · rintro rfl; exact Csr.num_of_ofNum hq
        · rintro rfl; exact Option.some.inj (hq.symm.trans (ofNum_num_of_plain hr))
      simp only [ih, State.shareCsr_cfg, csrRead_shareCsr hr, hqr, or_comm (a := r.num = n), or_and_right, ite_or]

/-! ## What another hart sees of an action -/

theorem mem_sharedNow_of_plain {a s u : State} {w : List CsrNum} : r.num ∈ a.sharedNow w s u ↔
    r.num ∈ a.cfg.sharedWith u.cfg ∧ (r.num ∈ w ∨ s.csrRead r ≠ u.csrRead r) := by
  simp [State.mem_sharedNow, ofNum_num_of_plain hr, changed_of_plain hr]

/-- A plain CSR of a hart after another's action: the acting hart's where both have and list it and the action wrote or
changed it, and else as before (R67). -/
theorem csrRead_see (a s u : State) (w : List CsrNum) : (a.see w s u).csrRead r
    = if r.num ∈ a.sharedNow w s u ∧ r.present a.cfg = true ∧ r.present u.cfg = true then u.csrRead r
      else a.csrRead r := by
  unfold State.see
  rw [csrRead_shareAll hr]
  congr 1
  exact csrRead_congr_of_plain hr rfl

theorem csrRead_see_of_shared {a s u : State} {w : List CsrNum} (hs : shareCsrOf a u r)
    (hw : r.num ∈ w ∨ s.csrRead r ≠ u.csrRead r) : (a.see w s u).csrRead r = u.csrRead r := by
  rw [csrRead_see hr, if_pos ⟨(mem_sharedNow_of_plain hr).2 ⟨hs.1, hw⟩, hs.2⟩]

theorem csrRead_see_of_not_shared {a s u : State} {w : List CsrNum}
    (h : (r.num ∉ w ∧ s.csrRead r = u.csrRead r) ∨ ¬ shareCsrOf a u r) : (a.see w s u).csrRead r = a.csrRead r := by
  rw [csrRead_see hr, if_neg]
  rintro ⟨hn, hp⟩
  obtain ⟨hn, hw⟩ := (mem_sharedNow_of_plain hr).1 hn
  rcases h with ⟨hw', he⟩ | h
  · exact hw.elim hw' fun hne => hne he
  · exact h ⟨hn, hp⟩

/-! ## Reset beside others -/

theorem csrRead_adopt_of_shared {t o : State} (h : shareCsrOf t o r) : (t.adopt o).csrRead r = o.csrRead r :=
  (csrRead_shareAll hr o _ t).trans (if_pos h)

theorem csrRead_adopt_of_not_shared {t o : State} (h : ¬ shareCsrOf t o r) : (t.adopt o).csrRead r = t.csrRead r :=
  (csrRead_shareAll hr o _ t).trans (if_neg h)

end

@[simp] theorem State.resetBeside_cfg (s : State) (others : List State) : (s.resetBeside others).cfg = s.cfg := by
  rw [State.resetBeside_frame]
  rfl

/-- Sharing is a matter of the configurations. -/
theorem shareCsrOf_resetBeside (s o : State) (others : List State) (r : Csr) :
    shareCsrOf (s.resetBeside others) o r ↔ shareCsrOf s o r := by
  unfold shareCsrOf
  rw [State.resetBeside_cfg]

section
variable {r : Csr} (hr : r ∈ plainCsrs) {s : State} {others : List State}
include hr

/-- A CSR no other hart shares is reset (R830, R831). -/
theorem csrRead_resetBeside_of_not_shared (h : ∀ o ∈ others, ¬ shareCsrOf s o r) :
    (s.resetBeside others).csrRead r = (State.resetWith s.cfg).csrRead r := by
  induction others with
  | nil => exact csrRead_congr_of_plain hr rfl
  | cons o l ih =>
    have ho : ¬ shareCsrOf (s.resetBeside l) o r := (shareCsrOf_resetBeside ..).not.2 (h o (.head _))
    exact (csrRead_adopt_of_not_shared hr ho).trans (ih fun p hp => h p (.tail _ hp))

/-- A CSR another hart shares keeps its value where the harts that share it agree (R831). -/
theorem csrRead_resetBeside_of_shared (h : ∃ o ∈ others, shareCsrOf s o r)
    (hagree : ∀ o ∈ others, shareCsrOf s o r → o.csrRead r = s.csrRead r) :
    (s.resetBeside others).csrRead r = s.csrRead r := by
  induction others with
  | nil => simp at h
  | cons o l ih =>
    by_cases ho : shareCsrOf s o r
    · exact (csrRead_adopt_of_shared hr ((shareCsrOf_resetBeside ..).2 ho)).trans (hagree o (.head _) ho)
    · have hl : ∃ p ∈ l, shareCsrOf s p r := by
        obtain ⟨p, hp, hs⟩ := h
        rcases List.mem_cons.1 hp with rfl | hp
        · exact absurd hs ho
        · exact ⟨p, hp, hs⟩
      exact (csrRead_adopt_of_not_shared hr ((shareCsrOf_resetBeside ..).not.2 ho)).trans
        (ih hl fun p hp => hagree p (.tail _ hp))

end

/-! ## Actions that reach no CSR of another hart -/

/-- An action that changed no CSR and no slot changed nothing that is shared. -/
theorem Csr.changed_eq_false {s u : State} (hc : ∀ r, s.csrRead r = u.csrRead r) (ht : s.trig = u.trig) (r : Csr) :
    r.changed s u = false := by
  have hmie : s.csr.mie = u.csr.mie := hc .mie
  have hmip : s.csr.mip = u.csr.mip := hc .mip
  cases r <;> simp [Csr.changed, hmie, hmip, ht, hc]

theorem State.sharedNow_eq_nil_of_unchanged {a s u : State} (hc : ∀ r, s.csrRead r = u.csrRead r)
    (ht : s.trig = u.trig) : a.sharedNow [] s u = [] :=
  List.eq_nil_iff_forall_not_mem.2 fun n h => by simp [State.mem_sharedNow, Csr.changed_eq_false hc ht] at h

theorem State.sharedNow_eq_nil_of_unlisted {a s u : State} {w : List CsrNum} (h : a.cfg.sharedWith u.cfg = []) :
    a.sharedNow w s u = [] := by
  rw [State.sharedNow, h, List.filter_nil]

/-! ## Actions of a system -/

theorem State.callBeside_of_ne_reset (s : State) (others : List State) {c : HostCall} (h : c ≠ .reset) :
    s.callBeside others c = (s.call c).2 := by
  cases c with
  | reset => exact absurd rfl h
  | _ => rfl

/-- Only a poke writes a CSR by its number (R520). -/
theorem State.writtenBy_of_ne_poke (s : State) (i : Nat) {c : HostCall} (hn : ∀ n v, c ≠ .pokeCsr n v)
    (hm : ∀ m v, c ≠ .pokeCsrNamed m v) : s.writtenBy (.host i c) = [] := by
  cases c with
  | pokeCsr n v => exact absurd rfl (hn n v)
  | pokeCsrNamed m v => exact absurd rfl (hm m v)
  | _ => rfl

theorem System.acted_step {y : System} {s u : State} {i : Nat} (h : y.acted s (.step i) = some u) :
    step s = .next u := by
  unfold System.acted at h
  cases hs : step s <;> rw [hs] at h <;> cases h
  rfl

section
variable (y : System) {i : Nat} (w : List CsrNum) (s t : State)

theorem System.install_length : (y.install i w s t).harts.length = y.harts.length := by
  simp [System.install]

theorem System.install_acting (h : i < y.harts.length) : (y.install i w s t).harts[i]? = some t := by
  simp [System.install, h]

theorem System.install_other {j : Nat} (h : i ≠ j) :
    (y.install i w s t).harts[j]? = y.harts[j]?.map fun a => a.see w s t := by
  simp [System.install, h]

end

/-- Settles O60: the acting hart is put in place, and every other is what `State.see` makes of it. -/
theorem hartsShareMemoryClintAndListedCsrs : Obligations.HartsShareMemoryClintAndListedCsrs := by
  intro y z act h
  obtain ⟨s, u, hs, hu, rfl, -⟩ := System.act_cases h
  obtain ⟨hi, -⟩ := List.getElem?_eq_some_iff.1 hs
  refine ⟨s, u, hs, y.install_acting _ s u hi, y.install_length .., ?_, ?_, ?_, ?_, ?_, ?_, ?_⟩
  · rintro i rfl
    exact System.acted_step hu
  · rintro i c rfl hc
    exact (Option.some.inj hu).symm.trans (s.callBeside_of_ne_reset _ hc)
  · rintro i rfl others h
    obtain rfl : s.resetBeside others = u := Option.some.inj hu
    exact ⟨s.resetBeside_frame others, fun r hr =>
      ⟨csrRead_resetBeside_of_not_shared hr, csrRead_resetBeside_of_shared hr⟩⟩
  · rintro i n v rfl
    rfl
  · rintro i m v rfl
    rfl
  · rintro i c rfl hn hm
    exact s.writtenBy_of_ne_poke i hn hm
  · intro j a b hne ha hb w
    rw [System.install_other y w s u hne, ha] at hb
    obtain rfl : a.see w s u = b := Option.some.inj hb
    refine ⟨rfl, State.see_frame .., fun hl => ?_, fun hw hc ht => ?_, fun r hr => ⟨fun hsh hor => ?_, ?_⟩⟩
    · rw [State.see_of_unchanged (State.sharedNow_eq_nil_of_unlisted hl)]
      exact ⟨rfl, rfl⟩
    · rw [hw, State.see_of_unchanged (State.sharedNow_eq_nil_of_unchanged hc ht)]
      exact ⟨rfl, rfl⟩
    · by_cases hw : r.num ∈ w ∨ s.csrRead r ≠ u.csrRead r
      · exact csrRead_see_of_shared hr hsh hw
      · obtain ⟨hnw, hsu⟩ := not_or.1 hw
        have has : a.csrRead r = s.csrRead r := (hor.resolve_left hnw).resolve_left hsu
        rw [csrRead_see_of_not_shared hr (.inl ⟨hnw, not_not.1 hsu⟩), has, not_not.1 hsu]
    · exact csrRead_see_of_not_shared hr

end Sys2Proof.Machine
end

section
/-! The fields of an encoding: a word is an encoding in a format exactly when its fields are the operands' (30_encoding
R252 to R256, R260, R261, R270). -/

namespace Sys2Proof

/-! ## Fields of words -/

/-- A word is made of two fields exactly when its high and low bits are theirs. The width of a format's word is a
literal and not a sum, hence the `no_index`. -/
theorem append_eq_iff {n m : Nat} {x : BitVec n} {y : BitVec m} {z : BitVec (no_index (n + m))} :
    @Eq (BitVec (no_index (n + m))) (HAppend.hAppend (γ := BitVec (no_index (n + m))) x y) z
      ↔ x = z.extractLsb' m n ∧ y = z.extractLsb' 0 m := by
  constructor
  · rintro rfl
    exact ⟨BitVec.extractLsb'_append_eq_left.symm, BitVec.extractLsb'_append_eq_right.symm⟩
  · rintro ⟨rfl, rfl⟩
    exact BitVec.extractLsb'_append_extractLsb'

/-- A field of a field is a field of the word. -/
theorem extractLsb'_extractLsb' {n s l s' l' : Nat} (x : BitVec n) (h : s' + l' ≤ l) :
    (x.extractLsb' s l).extractLsb' s' l' = x.extractLsb' (s + s') l' := by
  apply BitVec.eq_of_getLsbD_eq
  intro j hj
  simp [hj, show s' + j < l by omega, Nat.add_assoc]

theorem lowZero_iff {n k : Nat} (v : BitVec n) : lowZero k v = true ↔ v.extractLsb' 0 k = 0#k := by
  simp [lowZero, BitVec.toNat_eq]

theorem half_inj {g h : BitVec 16} : half g = half h ↔ g = h := BitVec.append_right_inj _

/-! ## The 32-bit formats -/

section
variable {w : Bits} {f7 op : BitVec 7} {f3 : BitVec 3} {rs2 rs1 rd : Reg}

theorem encR_eq_iff : encR f7 rs2 rs1 f3 rd op = w ↔
    w.extractLsb' 0 7 = op ∧ w.extractLsb' 12 3 = f3 ∧ w.extractLsb' 25 7 = f7
      ∧ rs2 = w.extractLsb' 20 5 ∧ rs1 = w.extractLsb' 15 5 ∧ rd = w.extractLsb' 7 5 := by
  simp only [encR, append_eq_iff, extractLsb'_extractLsb', Nat.reduceAdd, Nat.reduceLeDiff]
  tauto

theorem encI_eq_iff {imm : BitVec 12} : encI imm rs1 f3 rd op = w ↔
    w.extractLsb' 0 7 = op ∧ w.extractLsb' 12 3 = f3
      ∧ imm = w.extractLsb' 20 12 ∧ rs1 = w.extractLsb' 15 5 ∧ rd = w.extractLsb' 7 5 := by
  simp only [encI, append_eq_iff, extractLsb'_extractLsb', Nat.reduceAdd, Nat.reduceLeDiff]
  tauto

theorem encSh_eq_iff {f6 n : BitVec 6} : encSh f6 n rs1 f3 rd op = w ↔
    w.extractLsb' 0 7 = op ∧ w.extractLsb' 12 3 = f3 ∧ w.extractLsb' 26 6 = f6
      ∧ n = w.extractLsb' 20 6 ∧ rs1 = w.extractLsb' 15 5 ∧ rd = w.extractLsb' 7 5 := by
  simp only [encSh, append_eq_iff, extractLsb'_extractLsb', Nat.reduceAdd, Nat.reduceLeDiff]
  tauto

theorem encS_eq_iff {imm : BitVec 12} : encS imm rs2 rs1 f3 op = w ↔
    w.extractLsb' 0 7 = op ∧ w.extractLsb' 12 3 = f3 ∧ rs2 = w.extractLsb' 20 5 ∧ rs1 = w.extractLsb' 15 5
      ∧ imm.extractLsb' 5 7 = w.extractLsb' 25 7 ∧ imm.extractLsb' 0 5 = w.extractLsb' 7 5 := by
  simp only [encS, append_eq_iff, extractLsb'_extractLsb', Nat.reduceAdd, Nat.reduceLeDiff]
  tauto

theorem encB_eq_iff {off : BitVec 13} : encB off rs2 rs1 f3 op = w ↔
    w.extractLsb' 0 7 = op ∧ w.extractLsb' 12 3 = f3 ∧ rs2 = w.extractLsb' 20 5 ∧ rs1 = w.extractLsb' 15 5
      ∧ off.extractLsb' 12 1 = w.extractLsb' 31 1 ∧ off.extractLsb' 11 1 = w.extractLsb' 7 1
      ∧ off.extractLsb' 5 6 = w.extractLsb' 25 6 ∧ off.extractLsb' 1 4 = w.extractLsb' 8 4 := by
  simp only [encB, append_eq_iff, extractLsb'_extractLsb', Nat.reduceAdd, Nat.reduceLeDiff]
  tauto

theorem encU_eq_iff {imm : BitVec 20} : encU imm rd op = w ↔
    w.extractLsb' 0 7 = op ∧ imm = w.extractLsb' 12 20 ∧ rd = w.extractLsb' 7 5 := by
  simp only [encU, append_eq_iff, extractLsb'_extractLsb', Nat.reduceAdd, Nat.reduceLeDiff]
  tauto

theorem encJ_eq_iff {off : BitVec 21} : encJ off rd op = w ↔
    w.extractLsb' 0 7 = op ∧ rd = w.extractLsb' 7 5
      ∧ off.extractLsb' 20 1 = w.extractLsb' 31 1 ∧ off.extractLsb' 12 8 = w.extractLsb' 12 8
      ∧ off.extractLsb' 11 1 = w.extractLsb' 20 1 ∧ off.extractLsb' 1 10 = w.extractLsb' 21 10 := by
  simp only [encJ, append_eq_iff, extractLsb'_extractLsb', Nat.reduceAdd, Nat.reduceLeDiff]
  tauto

end

/-! ## The compressed formats -/

section
variable {h : BitVec 16} {f3 : BitVec 3} {r rd rs1 rs2 : CReg}

theorem encCI_eq_iff {imm : BitVec 6} {rd : Reg} {q : BitVec 2} : encCI f3 imm rd q = h ↔
    h.extractLsb' 0 2 = q ∧ h.extractLsb' 13 3 = f3 ∧ rd = h.extractLsb' 7 5
      ∧ imm.extractLsb' 5 1 = h.extractLsb' 12 1 ∧ imm.extractLsb' 0 5 = h.extractLsb' 2 5 := by
  simp only [encCI, append_eq_iff, extractLsb'_extractLsb', Nat.reduceAdd, Nat.reduceLeDiff]
  tauto

theorem encCBi_eq_iff {f2 : BitVec 2} {imm : BitVec 6} : encCBi f2 imm rd = h ↔
    h.extractLsb' 0 2 = 1#2 ∧ h.extractLsb' 13 3 = 4#3 ∧ h.extractLsb' 10 2 = f2 ∧ rd = h.extractLsb' 7 3
      ∧ imm.extractLsb' 5 1 = h.extractLsb' 12 1 ∧ imm.extractLsb' 0 5 = h.extractLsb' 2 5 := by
  simp only [encCBi, append_eq_iff, extractLsb'_extractLsb', Nat.reduceAdd, Nat.reduceLeDiff]
  tauto

theorem encCA_eq_iff {f6 : BitVec 6} {f2 : BitVec 2} : encCA f6 rd f2 rs2 = h ↔
    h.extractLsb' 0 2 = 1#2 ∧ h.extractLsb' 13 3 = f6.extractLsb' 3 3 ∧ h.extractLsb' 12 1 = f6.extractLsb' 2 1
      ∧ h.extractLsb' 10 2 = f6.extractLsb' 0 2 ∧ h.extractLsb' 5 2 = f2 ∧ rd = h.extractLsb' 7 3
      ∧ rs2 = h.extractLsb' 2 3 := by
  have funct6 : h.extractLsb' 13 3 ++ h.extractLsb' 12 1 ++ h.extractLsb' 10 2 = h.extractLsb' 10 6 := by
    simp [append_eq_iff, extractLsb'_extractLsb']
  simp only [encCA, append_eq_iff, extractLsb'_extractLsb', Nat.reduceAdd, Nat.reduceLeDiff]
  rw [← funct6, eq_comm (a := f6)]
  simp only [append_eq_iff, extractLsb'_extractLsb', Nat.reduceAdd, Nat.reduceLeDiff]
  tauto

theorem encCR_eq_iff {f4 : BitVec 4} {rd rs2 : Reg} : encCR f4 rd rs2 = h ↔
    h.extractLsb' 0 2 = 2#2 ∧ h.extractLsb' 13 3 = f4.extractLsb' 1 3 ∧ h.extractLsb' 12 1 = f4.extractLsb' 0 1
      ∧ rd = h.extractLsb' 7 5 ∧ rs2 = h.extractLsb' 2 5 := by
  have funct4 : h.extractLsb' 13 3 ++ h.extractLsb' 12 1 = h.extractLsb' 12 4 := by
    simp [append_eq_iff, extractLsb'_extractLsb']
  simp only [encCR, append_eq_iff, extractLsb'_extractLsb', Nat.reduceAdd, Nat.reduceLeDiff]
  rw [← funct4, eq_comm (a := f4)]
  simp only [append_eq_iff]
  tauto

theorem encCLw_eq_iff {v : BitVec 7} : encCLw f3 v rs1 r = h ↔
    h.extractLsb' 0 2 = 0#2 ∧ h.extractLsb' 13 3 = f3 ∧ rs1 = h.extractLsb' 7 3 ∧ r = h.extractLsb' 2 3
      ∧ v.extractLsb' 6 1 = h.extractLsb' 5 1 ∧ v.extractLsb' 3 3 = h.extractLsb' 10 3
      ∧ v.extractLsb' 2 1 = h.extractLsb' 6 1 := by
  simp only [encCLw, append_eq_iff, extractLsb'_extractLsb', Nat.reduceAdd, Nat.reduceLeDiff]
  tauto

theorem encCLd_eq_iff {v : BitVec 8} : encCLd f3 v rs1 r = h ↔
    h.extractLsb' 0 2 = 0#2 ∧ h.extractLsb' 13 3 = f3 ∧ rs1 = h.extractLsb' 7 3 ∧ r = h.extractLsb' 2 3
      ∧ v.extractLsb' 6 2 = h.extractLsb' 5 2 ∧ v.extractLsb' 3 3 = h.extractLsb' 10 3 := by
  simp only [encCLd, append_eq_iff, extractLsb'_extractLsb', Nat.reduceAdd, Nat.reduceLeDiff]
  tauto

theorem encCB_eq_iff {off : BitVec 9} : encCB f3 off rs1 = h ↔
    h.extractLsb' 0 2 = 1#2 ∧ h.extractLsb' 13 3 = f3 ∧ rs1 = h.extractLsb' 7 3
      ∧ off.extractLsb' 8 1 = h.extractLsb' 12 1 ∧ off.extractLsb' 6 2 = h.extractLsb' 5 2
      ∧ off.extractLsb' 5 1 = h.extractLsb' 2 1 ∧ off.extractLsb' 3 2 = h.extractLsb' 10 2
      ∧ off.extractLsb' 1 2 = h.extractLsb' 3 2 := by
  simp only [encCB, append_eq_iff, extractLsb'_extractLsb', Nat.reduceAdd, Nat.reduceLeDiff]
  tauto

theorem encCJ_eq_iff {off : BitVec 12} : encCJ f3 off = h ↔
    h.extractLsb' 0 2 = 1#2 ∧ h.extractLsb' 13 3 = f3
      ∧ off.extractLsb' 11 1 = h.extractLsb' 12 1 ∧ off.extractLsb' 10 1 = h.extractLsb' 8 1
      ∧ off.extractLsb' 8 2 = h.extractLsb' 9 2 ∧ off.extractLsb' 7 1 = h.extractLsb' 6 1
      ∧ off.extractLsb' 6 1 = h.extractLsb' 7 1 ∧ off.extractLsb' 5 1 = h.extractLsb' 2 1
      ∧ off.extractLsb' 4 1 = h.extractLsb' 11 1 ∧ off.extractLsb' 1 3 = h.extractLsb' 3 3 := by
  simp only [encCJ, append_eq_iff, extractLsb'_extractLsb', Nat.reduceAdd, Nat.reduceLeDiff]
  tauto

/-! ## The compressed rows with a format of their own -/

theorem cAddi4spn_bits_eq_iff {v : BitVec 10} : (Instr.cAddi4spn rd v).bits = half h ↔
    h.extractLsb' 0 2 = 0#2 ∧ h.extractLsb' 13 3 = 0#3 ∧ rd = h.extractLsb' 2 3
      ∧ v.extractLsb' 6 4 = h.extractLsb' 7 4 ∧ v.extractLsb' 4 2 = h.extractLsb' 11 2
      ∧ v.extractLsb' 3 1 = h.extractLsb' 5 1 ∧ v.extractLsb' 2 1 = h.extractLsb' 6 1 := by
  simp only [Instr.bits, half_inj, append_eq_iff, extractLsb'_extractLsb', Nat.reduceAdd, Nat.reduceLeDiff]
  tauto

theorem cAddi16sp_bits_eq_iff {v : BitVec 10} : (Instr.cAddi16sp v).bits = half h ↔
    h.extractLsb' 0 2 = 1#2 ∧ h.extractLsb' 13 3 = 3#3 ∧ h.extractLsb' 7 5 = 2#5
      ∧ v.extractLsb' 9 1 = h.extractLsb' 12 1 ∧ v.extractLsb' 7 2 = h.extractLsb' 3 2
      ∧ v.extractLsb' 6 1 = h.extractLsb' 5 1 ∧ v.extractLsb' 5 1 = h.extractLsb' 2 1
      ∧ v.extractLsb' 4 1 = h.extractLsb' 6 1 := by
  simp only [Instr.bits, half_inj, append_eq_iff, extractLsb'_extractLsb', Nat.reduceAdd, Nat.reduceLeDiff]
  tauto

theorem cLwsp_bits_eq_iff {rd : Reg} {v : BitVec 8} : (Instr.cLwsp rd v).bits = half h ↔
    h.extractLsb' 0 2 = 2#2 ∧ h.extractLsb' 13 3 = 2#3 ∧ rd = h.extractLsb' 7 5
      ∧ v.extractLsb' 6 2 = h.extractLsb' 2 2 ∧ v.extractLsb' 5 1 = h.extractLsb' 12 1
      ∧ v.extractLsb' 2 3 = h.extractLsb' 4 3 := by
  simp only [Instr.bits, half_inj, append_eq_iff, extractLsb'_extractLsb', Nat.reduceAdd, Nat.reduceLeDiff]
  tauto

theorem cLdsp_bits_eq_iff {rd : Reg} {v : BitVec 9} : (Instr.cLdsp rd v).bits = half h ↔
    h.extractLsb' 0 2 = 2#2 ∧ h.extractLsb' 13 3 = 3#3 ∧ rd = h.extractLsb' 7 5
      ∧ v.extractLsb' 6 3 = h.extractLsb' 2 3 ∧ v.extractLsb' 5 1 = h.extractLsb' 12 1
      ∧ v.extractLsb' 3 2 = h.extractLsb' 5 2 := by
  simp only [Instr.bits, half_inj, append_eq_iff, extractLsb'_extractLsb', Nat.reduceAdd, Nat.reduceLeDiff]
  tauto

theorem cSwsp_bits_eq_iff {rs2 : Reg} {v : BitVec 8} : (Instr.cSwsp rs2 v).bits = half h ↔
    h.extractLsb' 0 2 = 2#2 ∧ h.extractLsb' 13 3 = 6#3 ∧ rs2 = h.extractLsb' 2 5
      ∧ v.extractLsb' 6 2 = h.extractLsb' 7 2 ∧ v.extractLsb' 2 4 = h.extractLsb' 9 4 := by
  simp only [Instr.bits, half_inj, append_eq_iff, extractLsb'_extractLsb', Nat.reduceAdd, Nat.reduceLeDiff]
  tauto

theorem cSdsp_bits_eq_iff {rs2 : Reg} {v : BitVec 9} : (Instr.cSdsp rs2 v).bits = half h ↔
    h.extractLsb' 0 2 = 2#2 ∧ h.extractLsb' 13 3 = 7#3 ∧ rs2 = h.extractLsb' 2 5
      ∧ v.extractLsb' 6 3 = h.extractLsb' 7 3 ∧ v.extractLsb' 3 3 = h.extractLsb' 10 3 := by
  simp only [Instr.bits, half_inj, append_eq_iff, extractLsb'_extractLsb', Nat.reduceAdd, Nat.reduceLeDiff]
  tauto

end

end Sys2Proof
end

section
/-! Decoding what is encoded gives the instruction back (30_encoding R252 to R256, R290; 47_compressed R581). -/

namespace Sys2Proof

/-! ## 32-bit words, by major opcode -/

section
variable {w : Bits} {f7 : BitVec 7} {f3 : BitVec 3} {rd rs1 rs2 : Reg} {imm : BitVec 12}

theorem decode32_lui {imm : BitVec 20} (h : encU imm rd 0x37#7 = w) : decode32 w = some (.lui rd imm) := by
  obtain ⟨hop, rfl, rfl⟩ := encU_eq_iff.1 h
  simp [decode32, hop]

theorem decode32_auipc {imm : BitVec 20} (h : encU imm rd 0x17#7 = w) : decode32 w = some (.auipc rd imm) := by
  obtain ⟨hop, rfl, rfl⟩ := encU_eq_iff.1 h
  simp [decode32, hop]

theorem decode32_jal {off : BitVec 21} (h : encJ off rd 0x6F#7 = w) (hoff : lowZero 1 off = true) :
    decode32 w = some (.jal rd off) := by
  obtain ⟨hop, rfl, hfields⟩ := encJ_eq_iff.1 h
  have hzero := (lowZero_iff off).1 hoff
  simp [decode32, hop, append_eq_iff, extractLsb'_extractLsb', hfields, hzero]

theorem decode32_jalr (h : encI imm rs1 0#3 rd 0x67#7 = w) : decode32 w = some (.jalr rd rs1 imm) := by
  obtain ⟨hop, hf3, rfl, rfl, rfl⟩ := encI_eq_iff.1 h
  simp [decode32, hop, hf3]

theorem decode32_branch {off : BitVec 13} (h : encB off rs2 rs1 f3 0x63#7 = w) (hoff : lowZero 1 off = true) :
    decode32 w = decBranch f3 rs1 rs2 off := by
  obtain ⟨hop, rfl, rfl, rfl, hfields⟩ := encB_eq_iff.1 h
  have hzero := (lowZero_iff off).1 hoff
  have himm : w.extractLsb' 31 1 ++ w.extractLsb' 7 1 ++ w.extractLsb' 25 6 ++ w.extractLsb' 8 4 ++ 0#1 = off := by
    simp [append_eq_iff, extractLsb'_extractLsb', hfields, hzero]
  simp [decode32, hop, himm]

theorem decode32_load (h : encI imm rs1 f3 rd 0x03#7 = w) : decode32 w = decLoad f3 rd rs1 imm := by
  obtain ⟨hop, rfl, rfl, rfl, rfl⟩ := encI_eq_iff.1 h
  simp [decode32, hop]

theorem decode32_store (h : encS imm rs2 rs1 f3 0x23#7 = w) : decode32 w = decStore f3 rs1 rs2 imm := by
  obtain ⟨hop, rfl, rfl, rfl, hhi, hlo⟩ := encS_eq_iff.1 h
  have himm : w.extractLsb' 25 7 ++ w.extractLsb' 7 5 = imm := append_eq_iff.2 ⟨hhi.symm, hlo.symm⟩
  simp [decode32, hop, himm]

theorem decode32_opImm (h : encI imm rs1 f3 rd 0x13#7 = w) : decode32 w = decOpImm f3 rd rs1 imm := by
  obtain ⟨hop, rfl, rfl, rfl, rfl⟩ := encI_eq_iff.1 h
  simp [decode32, hop]

theorem decode32_opImm32 (h : encI imm rs1 f3 rd 0x1B#7 = w) : decode32 w = decOpImm32 f3 rd rs1 imm := by
  obtain ⟨hop, rfl, rfl, rfl, rfl⟩ := encI_eq_iff.1 h
  simp [decode32, hop]

theorem decode32_op (h : encR f7 rs2 rs1 f3 rd 0x33#7 = w) : decode32 w = decOp f7 f3 rd rs1 rs2 := by
  obtain ⟨hop, rfl, rfl, rfl, rfl, rfl⟩ := encR_eq_iff.1 h
  simp [decode32, hop]

theorem decode32_op32 (h : encR f7 rs2 rs1 f3 rd 0x3B#7 = w) : decode32 w = decOp32 f7 f3 rd rs1 rs2 := by
  obtain ⟨hop, rfl, rfl, rfl, rfl, rfl⟩ := encR_eq_iff.1 h
  simp [decode32, hop]

theorem decode32_miscMem (h : encI imm rs1 f3 rd 0x0F#7 = w) : decode32 w = decMiscMem f3 imm := by
  obtain ⟨hop, rfl, rfl, rfl, rfl⟩ := encI_eq_iff.1 h
  simp [decode32, hop]

theorem decode32_system (h : encI imm rs1 f3 rd 0x73#7 = w) : decode32 w = decSystem w f3 rd rs1 imm := by
  obtain ⟨hop, rfl, rfl, rfl, rfl⟩ := encI_eq_iff.1 h
  simp [decode32, hop]

end

/-- A 32-bit instruction's bits decode to it: the major opcode chooses a table, and the function fields the row. -/
theorem decode32_of_bits {i : Instr} {w : Bits} (hc : i.ext ≠ .c) (hw : i.wellFormed = true) (h : i.bits = w) :
    decode32 w = some i := by
  obtain ⟨hoff, -, -, -⟩ := i.wellFormed_iff.1 hw
  cases i with
  | lui => exact decode32_lui h
  | auipc => exact decode32_auipc h
  | jal => exact decode32_jal h hoff
  | jalr => exact decode32_jalr h
  | beq | bne | blt | bge | bltu | bgeu => exact decode32_branch h hoff
  | lb | lh | lw | ld | lbu | lhu | lwu => exact decode32_load h
  | sb | sh | sw | sd => exact decode32_store h
  | addi | slti | sltiu | xori | ori | andi => exact decode32_opImm h
  | slli | srli | srai =>
    obtain ⟨hop, hf3, hf6, rfl, rfl, rfl⟩ := encSh_eq_iff.1 h
    simp [decode32, decOpImm, extractLsb'_extractLsb', hop, hf3, hf6]
  | addiw => exact decode32_opImm32 h
  | slliw | srliw | sraiw =>
    obtain ⟨hop, hf3, hf7, rfl, rfl, rfl⟩ := encR_eq_iff.1 h
    simp [decode32, decOpImm32, extractLsb'_extractLsb', hop, hf3, hf7]
  | add | sub | sll | slt | sltu | xor | srl | sra | or | and | mul | mulh | mulhsu | mulhu | div | divu | rem | remu =>
    exact decode32_op h
  | addw | subw | sllw | srlw | sraw | mulw | divw | divuw | remw | remuw => exact decode32_op32 h
  | fence =>
    obtain ⟨hop, hf3, himm, -, -⟩ := encI_eq_iff.1 h
    obtain ⟨⟨rfl, rfl⟩, rfl⟩ := by
      simpa only [append_eq_iff, extractLsb'_extractLsb', Nat.reduceAdd, Nat.reduceLeDiff] using himm
    simp [decode32, decMiscMem, extractLsb'_extractLsb', hop, hf3]
  | fenceI => exact decode32_miscMem h
  | ecall | ebreak | mret | wfi | sret | dret => exact h ▸ rfl
  | csrrw | csrrs | csrrc | csrrwi | csrrsi | csrrci => exact decode32_system h
  | sfenceVma =>
    obtain ⟨hop, hf3, hf7, rfl, rfl, hrd⟩ := encR_eq_iff.1 h
    have hne (v : Bits) (hv : v.extractLsb' 25 7 ≠ 0b0001001#7) : w ≠ v := fun e => hv (e ▸ hf7)
    simp [decode32, decSystem, extractLsb'_extractLsb', hop, hf3, hf7, ← hrd, hne]
  | _ => exact absurd rfl hc

/-! ## Compressed halfwords -/

theorem guardRow_eq_some_iff {i j : Instr} : guardRow j = some i ↔ j = i ∧ i.wellFormed = true := by
  unfold guardRow
  split
  · next h => exact ⟨fun e => Option.some.inj e ▸ ⟨rfl, h⟩, fun ⟨e, _⟩ => e ▸ rfl⟩
  · next h => exact ⟨nofun, fun ⟨e, hi⟩ => absurd (e ▸ hi) h⟩

/-- A compressed instruction's halfword decodes to it: the quadrant and funct3 choose the row, and each piece of a
scrambled immediate goes back to its place. -/
theorem decode16_of_bits {i : Instr} {h : BitVec 16} (hc : i.ext = .c) (hw : i.wellFormed = true)
    (hb : i.bits = half h) : decode16 h = some i := by
  obtain ⟨hoff, hscale, -, hreg⟩ := i.wellFormed_iff.1 hw
  cases i with
  | cAddi4spn =>
    obtain ⟨hq, hf3, rfl, hfields⟩ := cAddi4spn_bits_eq_iff.1 hb
    simp [decode16, decodeQ0, guardRow_eq_some_iff, append_eq_iff, extractLsb'_extractLsb', hq, hf3, hfields,
      (lowZero_iff _).1 hscale, hw]
  | cLw | cSw =>
    obtain ⟨hq, hf3, rfl, rfl, hfields⟩ := encCLw_eq_iff.1 (half_inj.1 hb)
    simp [decode16, decodeQ0, append_eq_iff, extractLsb'_extractLsb', hq, hf3, hfields, (lowZero_iff _).1 hscale]
  | cLd | cSd =>
    obtain ⟨hq, hf3, rfl, rfl, hfields⟩ := encCLd_eq_iff.1 (half_inj.1 hb)
    simp [decode16, decodeQ0, append_eq_iff, extractLsb'_extractLsb', hq, hf3, hfields, (lowZero_iff _).1 hscale]
  | cNop imm | cAddi rd imm | cAddiw rd imm | cLi rd imm | cLui rd imm | cSlli rd imm =>
    obtain ⟨hq, hf3, hrd, hhi, hlo⟩ := encCI_eq_iff.1 (half_inj.1 hb)
    have himm : h.extractLsb' 12 1 ++ h.extractLsb' 2 5 = imm := append_eq_iff.2 ⟨hhi.symm, hlo.symm⟩
    simp only [Instr.regOk, bne_iff_ne, ne_eq] at hreg
    simp [decode16, decodeQ1, decodeQ2, hq, hf3, ← hrd, himm, guardRow_eq_some_iff, hw, hreg]
  | cAddi16sp =>
    obtain ⟨hq, hf3, hrd, hfields⟩ := cAddi16sp_bits_eq_iff.1 hb
    simp [decode16, decodeQ1, guardRow_eq_some_iff, append_eq_iff, extractLsb'_extractLsb', hq, hf3, hrd, hfields,
      (lowZero_iff _).1 hscale, hw]
  | cSrli | cSrai | cAndi =>
    obtain ⟨hq, hf3, hf2, rfl, hfields⟩ := encCBi_eq_iff.1 (half_inj.1 hb)
    simp [decode16, decodeQ1, decodeQ1Arith, append_eq_iff, hq, hf3, hf2, hfields]
  | cSub | cXor | cOr | cAnd | cSubw | cAddw =>
    obtain ⟨hq, hf3, h12, h10, hf2, rfl, rfl⟩ := encCA_eq_iff.1 (half_inj.1 hb)
    simp [decode16, decodeQ1, decodeQ1Arith, hq, hf3, hf2, h12, h10]
  | cJ =>
    obtain ⟨hq, hf3, hfields⟩ := encCJ_eq_iff.1 (half_inj.1 hb)
    simp [decode16, decodeQ1, append_eq_iff, extractLsb'_extractLsb', hq, hf3, hfields, (lowZero_iff _).1 hoff]
  | cBeqz | cBnez =>
    obtain ⟨hq, hf3, rfl, hfields⟩ := encCB_eq_iff.1 (half_inj.1 hb)
    simp [decode16, decodeQ1, append_eq_iff, extractLsb'_extractLsb', hq, hf3, hfields, (lowZero_iff _).1 hoff]
  | cJr | cMv | cJalr | cAdd =>
    obtain ⟨hq, hf3, h12, hr1, hr2⟩ := encCR_eq_iff.1 (half_inj.1 hb)
    simp only [Instr.regOk, bne_iff_ne, ne_eq] at hreg
    simp [decode16, decodeQ2, decodeQ2Reg, hq, hf3, h12, ← hr1, ← hr2, guardRow_eq_some_iff, hw, hreg]
  | cEbreak => exact half_inj.1 hb ▸ rfl
  | cLwsp =>
    obtain ⟨hq, hf3, rfl, hfields⟩ := cLwsp_bits_eq_iff.1 hb
    simp [decode16, decodeQ2, guardRow_eq_some_iff, append_eq_iff, extractLsb'_extractLsb', hq, hf3, hfields,
      (lowZero_iff _).1 hscale, hw]
  | cLdsp =>
    obtain ⟨hq, hf3, rfl, hfields⟩ := cLdsp_bits_eq_iff.1 hb
    simp [decode16, decodeQ2, guardRow_eq_some_iff, append_eq_iff, extractLsb'_extractLsb', hq, hf3, hfields,
      (lowZero_iff _).1 hscale, hw]
  | cSwsp =>
    obtain ⟨hq, hf3, rfl, hfields⟩ := cSwsp_bits_eq_iff.1 hb
    simp [decode16, decodeQ2, append_eq_iff, extractLsb'_extractLsb', hq, hf3, hfields, (lowZero_iff _).1 hscale]
  | cSdsp =>
    obtain ⟨hq, hf3, rfl, hfields⟩ := cSdsp_bits_eq_iff.1 hb
    simp [decode16, decodeQ2, append_eq_iff, extractLsb'_extractLsb', hq, hf3, hfields, (lowZero_iff _).1 hscale]
  | _ => cases hc

/-! ## The bytes of an encoding -/

theorem extractLsb'_half {s l : Nat} (h : BitVec 16) (hl : s + l ≤ 16) :
    (half h).extractLsb' s l = h.extractLsb' s l := BitVec.extractLsb'_append_eq_of_add_le hl

theorem Instr.compressed_iff_low_bits {i : Instr} : i.ext = .c ↔ i.bits.extractLsb' 0 2 ≠ 3#2 := by
  rw [ne_eq, Instr.low_bits]
  unfold Instr.len
  split <;> simp [*]

/-- The bits of a well-formed instruction decode to it. -/
theorem decodeBits_bits {i : Instr} (hw : i.wellFormed = true) : decodeBits i.bits = some i := by
  unfold decodeBits
  split
  · next hlow => exact decode32_of_bits (fun hc => Instr.compressed_iff_low_bits.1 hc hlow) hw rfl
  · next hlow =>
    have hc := Instr.compressed_iff_low_bits.2 hlow
    obtain ⟨h, hb⟩ := Instr.bits_compressed hc
    rw [hb, extractLsb'_half h (by decide), BitVec.extractLsb'_eq_self]
    exact decode16_of_bits hc hw hb

/-- A halfword decodes from its two bytes, little-endian (R208). -/
theorem decode_half {b0 b1 : Byte} {rest : List Byte} {i : Instr} (hlow : b0.extractLsb' 0 2 ≠ 3#2)
    (hd : decodeBits (half (b1 ++ b0)) = some i) : decode (b0 :: b1 :: rest) = .ok (i, rest) := by
  simp [decode, hlow, hd]

/-- A word decodes from its four bytes. -/
theorem decode_word {b0 b1 b2 b3 : Byte} {rest : List Byte} {i : Instr} (hlow : b0.extractLsb' 0 2 = 3#2)
    (hd : decodeBits (b3 ++ b2 ++ b1 ++ b0) = some i) : decode (b0 :: b1 :: b2 :: b3 :: rest) = .ok (i, rest) := by
  simp [decode, hlow, hd]

theorem decode_encode {i : Instr} (rest : List Byte) (hw : i.wellFormed = true) :
    decode (encode i ++ rest) = .ok (i, rest) := by
  have hlow : (i.bits.extractLsb' 0 8).extractLsb' 0 2 = i.bits.extractLsb' 0 2 :=
    extractLsb'_extractLsb' _ (by decide)
  have hd := decodeBits_bits hw
  unfold encode
  split
  · next hc =>
    refine decode_half (hlow ▸ Instr.compressed_iff_low_bits.1 hc) ?_
    obtain ⟨h, hb⟩ := Instr.bits_compressed hc
    have hbytes : h.extractLsb' 8 8 ++ h.extractLsb' 0 8 = h := append_eq_iff.2 ⟨rfl, rfl⟩
    rwa [hb, extractLsb'_half h (by decide), extractLsb'_half h (by decide), hbytes, ← hb]
  · next hc =>
    refine decode_word (hlow ▸ not_not.1 (mt Instr.compressed_iff_low_bits.2 hc)) ?_
    have hbytes : i.bits.extractLsb' 24 8 ++ i.bits.extractLsb' 16 8 ++ i.bits.extractLsb' 8 8 ++ i.bits.extractLsb' 0 8
        = i.bits := by
      simp [append_eq_iff, extractLsb'_extractLsb']
    rwa [hbytes]

/-- Settles O2: the bytes make up the bits again, the bits choose the row, and the fields are the operands. -/
theorem decodeOfEncodeIsTheInstruction : Obligations.DecodeOfEncodeIsTheInstruction :=
  fun _ rest hw => decode_encode rest hw

end Sys2Proof
end

section
/-! The decoder drops no bit: the word is the encoding of what it decodes to, but for the ignored fields of the two
fences (30_encoding R250, R283). -/

namespace Sys2Proof

/-- The word is the encoding of a decoder's answer, if any. -/
def OnlyEncodedAs (w : Bits) (o : Option Instr) : Prop := ∀ i, o = some i → i.bits = w

namespace OnlyEncodedAs

variable {w : Bits} {i : Instr}

theorem none : OnlyEncodedAs w none := nofun

theorem some (h : i.bits = w) : OnlyEncodedAs w (some i) := fun _ e => Option.some.inj e ▸ h

theorem ite {p : Prop} [Decidable p] {a b : Option Instr} (ha : p → OnlyEncodedAs w a)
    (hb : ¬ p → OnlyEncodedAs w b) : OnlyEncodedAs w (if p then a else b) := by
  by_cases h : p
  · exact (if_pos h).symm ▸ ha h
  · exact (if_neg h).symm ▸ hb h

theorem guardRow (h : i.bits = w) : OnlyEncodedAs w (guardRow i) := ite (fun _ => some h) fun _ => none

end OnlyEncodedAs

/-! ## 32-bit words -/

section
variable {w : Bits}

theorem decLoad_encodedAs (hop : w.extractLsb' 0 7 = 0x03#7) : OnlyEncodedAs w
    (decLoad (w.extractLsb' 12 3) (w.extractLsb' 7 5) (w.extractLsb' 15 5) (w.extractLsb' 20 12)) := by
  unfold decLoad
  repeat refine .ite (fun hf3 => .some (encI_eq_iff.2 ⟨hop, hf3, rfl, rfl, rfl⟩)) fun _ => ?_
  exact .none

theorem decStore_encodedAs {imm : BitVec 12} (hop : w.extractLsb' 0 7 = 0x23#7)
    (himm : w.extractLsb' 25 7 ++ w.extractLsb' 7 5 = imm) :
    OnlyEncodedAs w (decStore (w.extractLsb' 12 3) (w.extractLsb' 15 5) (w.extractLsb' 20 5) imm) := by
  obtain ⟨hhi, hlo⟩ := append_eq_iff.1 himm
  unfold decStore
  repeat refine .ite (fun hf3 => .some (encS_eq_iff.2 ⟨hop, hf3, rfl, rfl, hhi.symm, hlo.symm⟩)) fun _ => ?_
  exact .none

theorem decBranch_encodedAs {off : BitVec 13} (hop : w.extractLsb' 0 7 = 0x63#7)
    (himm : w.extractLsb' 31 1 ++ w.extractLsb' 7 1 ++ w.extractLsb' 25 6 ++ w.extractLsb' 8 4 ++ 0#1 = off) :
    OnlyEncodedAs w (decBranch (w.extractLsb' 12 3) (w.extractLsb' 15 5) (w.extractLsb' 20 5) off) := by
  obtain ⟨⟨⟨⟨h12, h11⟩, h5⟩, h1⟩, -⟩ := by
    simpa only [append_eq_iff, extractLsb'_extractLsb', Nat.reduceAdd, Nat.reduceLeDiff] using himm
  unfold decBranch
  repeat
    refine .ite (fun hf3 => .some (encB_eq_iff.2
      ⟨hop, hf3, rfl, rfl, h12.symm, h11.symm, h5.symm, h1.symm⟩)) fun _ => ?_
  exact .none

/-- A shift's upper immediate bits are checked, and its row holds them. -/
theorem shift_bits {f6 : BitVec 6} {f3 : BitVec 3} (hop : w.extractLsb' 0 7 = 0x13#7) (hf3 : w.extractLsb' 12 3 = f3)
    (hf6 : (w.extractLsb' 20 12).extractLsb' 6 6 = f6) :
    encSh f6 ((w.extractLsb' 20 12).extractLsb' 0 6) (w.extractLsb' 15 5) f3 (w.extractLsb' 7 5) 0x13#7 = w := by
  rw [extractLsb'_extractLsb' _ (by decide)] at hf6 ⊢
  exact encSh_eq_iff.2 ⟨hop, hf3, hf6, rfl, rfl, rfl⟩

theorem shiftW_bits {f7 : BitVec 7} {f3 : BitVec 3} (hop : w.extractLsb' 0 7 = 0x1B#7) (hf3 : w.extractLsb' 12 3 = f3)
    (hf7 : (w.extractLsb' 20 12).extractLsb' 5 7 = f7) :
    encR f7 ((w.extractLsb' 20 12).extractLsb' 0 5) (w.extractLsb' 15 5) f3 (w.extractLsb' 7 5) 0x1B#7 = w := by
  rw [extractLsb'_extractLsb' _ (by decide)] at hf7 ⊢
  exact encR_eq_iff.2 ⟨hop, hf3, hf7, rfl, rfl, rfl⟩

theorem decOpImm_encodedAs (hop : w.extractLsb' 0 7 = 0x13#7) : OnlyEncodedAs w
    (decOpImm (w.extractLsb' 12 3) (w.extractLsb' 7 5) (w.extractLsb' 15 5) (w.extractLsb' 20 12)) := by
  unfold decOpImm
  repeat refine .ite (fun hf3 => .some (encI_eq_iff.2 ⟨hop, hf3, rfl, rfl, rfl⟩)) fun _ => ?_
  refine .ite (fun hf3 => .ite (fun hf6 => .some (shift_bits hop hf3 hf6)) fun _ => .none) fun _ => ?_
  have hf3 : w.extractLsb' 12 3 = 5#3 := by bv_omega
  exact .ite (fun hf6 => .some (shift_bits hop hf3 hf6)) fun _ =>
    .ite (fun hf6 => .some (shift_bits hop hf3 hf6)) fun _ => .none

theorem decOpImm32_encodedAs (hop : w.extractLsb' 0 7 = 0x1B#7) : OnlyEncodedAs w
    (decOpImm32 (w.extractLsb' 12 3) (w.extractLsb' 7 5) (w.extractLsb' 15 5) (w.extractLsb' 20 12)) :=
  .ite (fun hf3 => .some (encI_eq_iff.2 ⟨hop, hf3, rfl, rfl, rfl⟩)) fun _ =>
  .ite (fun hf3 => .ite (fun hf7 => .some (shiftW_bits hop hf3 hf7)) fun _ => .none) fun _ =>
  .ite (fun hf3 => .ite (fun hf7 => .some (shiftW_bits hop hf3 hf7)) fun _ =>
    .ite (fun hf7 => .some (shiftW_bits hop hf3 hf7)) fun _ => .none) fun _ => .none

theorem decOp_encodedAs (hop : w.extractLsb' 0 7 = 0x33#7) : OnlyEncodedAs w
    (decOp (w.extractLsb' 25 7) (w.extractLsb' 12 3) (w.extractLsb' 7 5) (w.extractLsb' 15 5) (w.extractLsb' 20 5)) := by
  refine .ite (fun hf7 => ?_) fun _ => .ite (fun hf7 => ?_) fun _ => .ite (fun hf7 => ?_) fun _ => .none
  all_goals repeat refine .ite (fun hf3 => .some (encR_eq_iff.2 ⟨hop, hf3, hf7, rfl, rfl, rfl⟩)) fun _ => ?_
  · exact .some (encR_eq_iff.2 ⟨hop, by bv_omega, hf7, rfl, rfl, rfl⟩)
  · exact .none
  · exact .some (encR_eq_iff.2 ⟨hop, by bv_omega, hf7, rfl, rfl, rfl⟩)

theorem decOp32_encodedAs (hop : w.extractLsb' 0 7 = 0x3B#7) : OnlyEncodedAs w
    (decOp32 (w.extractLsb' 25 7) (w.extractLsb' 12 3) (w.extractLsb' 7 5) (w.extractLsb' 15 5)
      (w.extractLsb' 20 5)) := by
  refine .ite (fun hf7 => ?_) fun _ => .ite (fun hf7 => ?_) fun _ => .ite (fun hf7 => ?_) fun _ => .none
  all_goals
    repeat refine .ite (fun hf3 => .some (encR_eq_iff.2 ⟨hop, hf3, hf7, rfl, rfl, rfl⟩)) fun _ => ?_
    exact .none

theorem sfenceVma_bits (hop : w.extractLsb' 0 7 = 0x73#7) (hf3 : w.extractLsb' 12 3 = 0#3)
    (h : (w.extractLsb' 20 12).extractLsb' 5 7 = 0b0001001#7 ∧ w.extractLsb' 7 5 = 0#5) :
    (Instr.sfenceVma (w.extractLsb' 15 5) ((w.extractLsb' 20 12).extractLsb' 0 5)).bits = w := by
  obtain ⟨hf7, hrd⟩ := h
  rw [extractLsb'_extractLsb' _ (by decide)] at hf7 ⊢
  exact encR_eq_iff.2 ⟨hop, hf3, hf7, rfl, rfl, hrd.symm⟩

theorem decSystem_encodedAs (hop : w.extractLsb' 0 7 = 0x73#7) : OnlyEncodedAs w
    (decSystem w (w.extractLsb' 12 3) (w.extractLsb' 7 5) (w.extractLsb' 15 5) (w.extractLsb' 20 12)) := by
  refine .ite (fun hf3 => ?_) fun _ => ?_
  · repeat refine .ite (fun hw => .some hw.symm) fun _ => ?_
    exact .ite (fun h => .some (sfenceVma_bits hop hf3 h)) fun _ => .none
  · repeat refine .ite (fun hf3 => .some (encI_eq_iff.2 ⟨hop, hf3, rfl, rfl, rfl⟩)) fun _ => ?_
    exact .none

theorem jal_bits_of_fields {off : BitVec 21} (hop : w.extractLsb' 0 7 = 0x6F#7)
    (himm : w.extractLsb' 31 1 ++ w.extractLsb' 12 8 ++ w.extractLsb' 20 1 ++ w.extractLsb' 21 10 ++ 0#1 = off) :
    (Instr.jal (w.extractLsb' 7 5) off).bits = w := by
  simp only [append_eq_iff, extractLsb'_extractLsb', Nat.reduceAdd, Nat.reduceLeDiff] at himm
  simp [Instr.bits, encJ_eq_iff, hop, himm]

/-- A 32-bit word that is no fence is the encoding of what it decodes to. -/
theorem decode32_encodedAs (hfence : w.extractLsb' 0 7 ≠ 0x0F#7) : OnlyEncodedAs w (decode32 w) :=
  .ite (fun hop => .some (encU_eq_iff.2 ⟨hop, rfl, rfl⟩)) fun _ =>
  .ite (fun hop => .some (encU_eq_iff.2 ⟨hop, rfl, rfl⟩)) fun _ =>
  .ite (fun hop => .some (jal_bits_of_fields hop rfl)) fun _ =>
  .ite (fun hop => .ite (fun hf3 => .some (encI_eq_iff.2 ⟨hop, hf3, rfl, rfl, rfl⟩)) fun _ => .none) fun _ =>
  .ite (fun hop => decBranch_encodedAs hop rfl) fun _ =>
  .ite decLoad_encodedAs fun _ =>
  .ite (fun hop => decStore_encodedAs hop rfl) fun _ =>
  .ite decOpImm_encodedAs fun _ =>
  .ite decOpImm32_encodedAs fun _ =>
  .ite decOp_encodedAs fun _ =>
  .ite decOp32_encodedAs fun _ =>
  .ite (fun hop => absurd hop hfence) fun _ =>
  .ite decSystem_encodedAs fun _ => .none

end

/-! ## Compressed halfwords -/

section
variable {h : BitVec 16} {f3 : BitVec 3}

theorem cAddi4spn_bits_of_fields {v : BitVec 10} (hq : h.extractLsb' 0 2 = 0#2) (hf3 : h.extractLsb' 13 3 = 0#3)
    (himm : h.extractLsb' 7 4 ++ h.extractLsb' 11 2 ++ h.extractLsb' 5 1 ++ h.extractLsb' 6 1 ++ 0#2 = v) :
    (Instr.cAddi4spn (h.extractLsb' 2 3) v).bits = half h := by
  simp only [append_eq_iff, extractLsb'_extractLsb', Nat.reduceAdd, Nat.reduceLeDiff] at himm
  simp [cAddi4spn_bits_eq_iff, hq, hf3, himm]

theorem encCLw_of_fields {v : BitVec 7} (hq : h.extractLsb' 0 2 = 0#2) (hf3 : h.extractLsb' 13 3 = f3)
    (himm : h.extractLsb' 5 1 ++ h.extractLsb' 10 3 ++ h.extractLsb' 6 1 ++ 0#2 = v) :
    half (encCLw f3 v (h.extractLsb' 7 3) (h.extractLsb' 2 3)) = half h := by
  simp only [append_eq_iff, extractLsb'_extractLsb', Nat.reduceAdd, Nat.reduceLeDiff] at himm
  simp [half_inj, encCLw_eq_iff, hq, hf3, himm]

theorem encCLd_of_fields {v : BitVec 8} (hq : h.extractLsb' 0 2 = 0#2) (hf3 : h.extractLsb' 13 3 = f3)
    (himm : h.extractLsb' 5 2 ++ h.extractLsb' 10 3 ++ 0#3 = v) :
    half (encCLd f3 v (h.extractLsb' 7 3) (h.extractLsb' 2 3)) = half h := by
  simp only [append_eq_iff, extractLsb'_extractLsb', Nat.reduceAdd, Nat.reduceLeDiff] at himm
  simp [half_inj, encCLd_eq_iff, hq, hf3, himm]

theorem decodeQ0_encodedAs (hq : h.extractLsb' 0 2 = 0#2) : OnlyEncodedAs (half h) (decodeQ0 h) :=
  .ite (fun hf3 => .guardRow (cAddi4spn_bits_of_fields hq hf3 rfl)) fun _ =>
  .ite (fun hf3 => .some (encCLw_of_fields hq hf3 rfl)) fun _ =>
  .ite (fun hf3 => .some (encCLd_of_fields hq hf3 rfl)) fun _ =>
  .ite (fun hf3 => .some (encCLw_of_fields hq hf3 rfl)) fun _ =>
  .ite (fun hf3 => .some (encCLd_of_fields hq hf3 rfl)) fun _ => .none

theorem encCI_of_fields {imm : BitVec 6} {q : BitVec 2} {rd : Reg} (hq : h.extractLsb' 0 2 = q)
    (hf3 : h.extractLsb' 13 3 = f3) (hrd : h.extractLsb' 7 5 = rd)
    (himm : h.extractLsb' 12 1 ++ h.extractLsb' 2 5 = imm) : half (encCI f3 imm rd q) = half h := by
  obtain ⟨hhi, hlo⟩ := append_eq_iff.1 himm
  exact half_inj.2 (encCI_eq_iff.2 ⟨hq, hf3, hrd.symm, hhi.symm, hlo.symm⟩)

theorem cAddi16sp_bits_of_fields {v : BitVec 10} (hq : h.extractLsb' 0 2 = 1#2) (hf3 : h.extractLsb' 13 3 = 3#3)
    (hrd : h.extractLsb' 7 5 = 2#5)
    (himm : h.extractLsb' 12 1 ++ h.extractLsb' 3 2 ++ h.extractLsb' 5 1 ++ h.extractLsb' 2 1 ++ h.extractLsb' 6 1
      ++ 0#4 = v) : (Instr.cAddi16sp v).bits = half h := by
  simp only [append_eq_iff, extractLsb'_extractLsb', Nat.reduceAdd, Nat.reduceLeDiff] at himm
  simp [cAddi16sp_bits_eq_iff, hq, hf3, hrd, himm]

theorem encCJ_of_fields {off : BitVec 12} (hq : h.extractLsb' 0 2 = 1#2) (hf3 : h.extractLsb' 13 3 = f3)
    (himm : h.extractLsb' 12 1 ++ h.extractLsb' 8 1 ++ h.extractLsb' 9 2 ++ h.extractLsb' 6 1 ++ h.extractLsb' 7 1
      ++ h.extractLsb' 2 1 ++ h.extractLsb' 11 1 ++ h.extractLsb' 3 3 ++ 0#1 = off) :
    half (encCJ f3 off) = half h := by
  simp only [append_eq_iff, extractLsb'_extractLsb', Nat.reduceAdd, Nat.reduceLeDiff] at himm
  simp [half_inj, encCJ_eq_iff, hq, hf3, himm]

theorem encCB_of_fields {off : BitVec 9} (hq : h.extractLsb' 0 2 = 1#2) (hf3 : h.extractLsb' 13 3 = f3)
    (himm : h.extractLsb' 12 1 ++ h.extractLsb' 5 2 ++ h.extractLsb' 2 1 ++ h.extractLsb' 10 2 ++ h.extractLsb' 3 2
      ++ 0#1 = off) : half (encCB f3 off (h.extractLsb' 7 3)) = half h := by
  simp only [append_eq_iff, extractLsb'_extractLsb', Nat.reduceAdd, Nat.reduceLeDiff] at himm
  simp [half_inj, encCB_eq_iff, hq, hf3, himm]

theorem encCBi_of_fields {f2 : BitVec 2} {imm : BitVec 6} (hq : h.extractLsb' 0 2 = 1#2)
    (hf3 : h.extractLsb' 13 3 = 4#3) (hf2 : h.extractLsb' 10 2 = f2)
    (himm : h.extractLsb' 12 1 ++ h.extractLsb' 2 5 = imm) :
    half (encCBi f2 imm (h.extractLsb' 7 3)) = half h := by
  obtain ⟨hhi, hlo⟩ := append_eq_iff.1 himm
  exact half_inj.2 (encCBi_eq_iff.2 ⟨hq, hf3, hf2, rfl, hhi.symm, hlo.symm⟩)

/-- The CA rows have funct3 100 and `inst[11:10]` 11, and `inst[12]` and `inst[6:5]` select one (R273). -/
theorem encCA_of_fields {f6 : BitVec 6} {f2 : BitVec 2} {sel : BitVec 3} (hq : h.extractLsb' 0 2 = 1#2)
    (hf3 : h.extractLsb' 13 3 = 4#3) (hf2 : h.extractLsb' 10 2 = 3#2)
    (hsel : h.extractLsb' 12 1 ++ h.extractLsb' 5 2 = sel) (hf6 : 4#3 ++ sel.extractLsb' 2 1 ++ 3#2 = f6)
    (hsel2 : sel.extractLsb' 0 2 = f2) :
    half (encCA f6 (h.extractLsb' 7 3) f2 (h.extractLsb' 2 3)) = half h := by
  obtain ⟨h12, h65⟩ := append_eq_iff.1 hsel
  simp only [append_eq_iff, extractLsb'_extractLsb', Nat.reduceAdd, Nat.reduceLeDiff] at hf6
  simp [half_inj, encCA_eq_iff, hq, hf3, hf2, h12, h65, hf6, hsel2]

theorem decodeQ1Arith_encodedAs {imm : BitVec 6} (hq : h.extractLsb' 0 2 = 1#2) (hf3 : h.extractLsb' 13 3 = 4#3)
    (himm : h.extractLsb' 12 1 ++ h.extractLsb' 2 5 = imm) : OnlyEncodedAs (half h) (decodeQ1Arith h imm) := by
  refine .ite (fun hf2 => .some (encCBi_of_fields hq hf3 hf2 himm)) fun _ =>
    .ite (fun hf2 => .some (encCBi_of_fields hq hf3 hf2 himm)) fun _ =>
    .ite (fun hf2 => .some (encCBi_of_fields hq hf3 hf2 himm)) fun _ => ?_
  have hf2 : h.extractLsb' 10 2 = 3#2 := by bv_omega
  repeat refine .ite (fun hsel => .some (encCA_of_fields hq hf3 hf2 hsel (by decide) (by decide))) fun _ => ?_
  exact .none

theorem decodeQ1_encodedAs (hq : h.extractLsb' 0 2 = 1#2) : OnlyEncodedAs (half h) (decodeQ1 h) := by
  refine .ite (fun hf3 => .ite (fun hrd => .some (encCI_of_fields hq hf3 hrd rfl)) fun _ =>
      .some (encCI_of_fields hq hf3 rfl rfl)) fun _ =>
    .ite (fun hf3 => .guardRow (encCI_of_fields hq hf3 rfl rfl)) fun _ =>
    .ite (fun hf3 => .some (encCI_of_fields hq hf3 rfl rfl)) fun _ =>
    .ite (fun hf3 => .ite (fun hrd => .guardRow (cAddi16sp_bits_of_fields hq hf3 hrd rfl)) fun _ =>
      .guardRow (encCI_of_fields hq hf3 rfl rfl)) fun _ =>
    .ite (fun hf3 => decodeQ1Arith_encodedAs hq hf3 rfl) fun _ =>
    .ite (fun hf3 => .some (encCJ_of_fields hq hf3 rfl)) fun _ =>
    .ite (fun hf3 => .some (encCB_of_fields hq hf3 rfl)) fun _ => ?_
  exact .some (encCB_of_fields hq (by bv_omega) rfl)

theorem cLwsp_bits_of_fields {v : BitVec 8} (hq : h.extractLsb' 0 2 = 2#2) (hf3 : h.extractLsb' 13 3 = 2#3)
    (himm : h.extractLsb' 2 2 ++ h.extractLsb' 12 1 ++ h.extractLsb' 4 3 ++ 0#2 = v) :
    (Instr.cLwsp (h.extractLsb' 7 5) v).bits = half h := by
  simp only [append_eq_iff, extractLsb'_extractLsb', Nat.reduceAdd, Nat.reduceLeDiff] at himm
  simp [cLwsp_bits_eq_iff, hq, hf3, himm]

theorem cLdsp_bits_of_fields {v : BitVec 9} (hq : h.extractLsb' 0 2 = 2#2) (hf3 : h.extractLsb' 13 3 = 3#3)
    (himm : h.extractLsb' 2 3 ++ h.extractLsb' 12 1 ++ h.extractLsb' 5 2 ++ 0#3 = v) :
    (Instr.cLdsp (h.extractLsb' 7 5) v).bits = half h := by
  simp only [append_eq_iff, extractLsb'_extractLsb', Nat.reduceAdd, Nat.reduceLeDiff] at himm
  simp [cLdsp_bits_eq_iff, hq, hf3, himm]

theorem cSwsp_bits_of_fields {v : BitVec 8} (hq : h.extractLsb' 0 2 = 2#2) (hf3 : h.extractLsb' 13 3 = 6#3)
    (himm : h.extractLsb' 7 2 ++ h.extractLsb' 9 4 ++ 0#2 = v) :
    (Instr.cSwsp (h.extractLsb' 2 5) v).bits = half h := by
  simp only [append_eq_iff, extractLsb'_extractLsb', Nat.reduceAdd, Nat.reduceLeDiff] at himm
  simp [cSwsp_bits_eq_iff, hq, hf3, himm]

theorem cSdsp_bits_of_fields {v : BitVec 9} (hq : h.extractLsb' 0 2 = 2#2) (hf3 : h.extractLsb' 13 3 = 7#3)
    (himm : h.extractLsb' 7 3 ++ h.extractLsb' 10 3 ++ 0#3 = v) :
    (Instr.cSdsp (h.extractLsb' 2 5) v).bits = half h := by
  simp only [append_eq_iff, extractLsb'_extractLsb', Nat.reduceAdd, Nat.reduceLeDiff] at himm
  simp [cSdsp_bits_eq_iff, hq, hf3, himm]

theorem decodeQ2Reg_encodedAs (hq : h.extractLsb' 0 2 = 2#2) (hf3 : h.extractLsb' 13 3 = 4#3) :
    OnlyEncodedAs (half h) (decodeQ2Reg (h.extractLsb' 12 1) (h.extractLsb' 7 5) (h.extractLsb' 2 5)) := by
  have row {f4 : BitVec 4} {r1 r2 : Reg} (h12 : h.extractLsb' 12 1 = f4.extractLsb' 0 1)
      (hr1 : h.extractLsb' 7 5 = r1) (hr2 : h.extractLsb' 2 5 = r2) (h4 : f4.extractLsb' 1 3 = 4#3) :
      half (encCR f4 r1 r2) = half h :=
    half_inj.2 (encCR_eq_iff.2 ⟨hq, hf3.trans h4.symm, h12, hr1.symm, hr2.symm⟩)
  refine .ite (fun h12 => ?_) fun h12 => ?_
  · exact .ite (fun hr2 => .guardRow (row (f4 := 8#4) h12 rfl hr2 rfl)) fun _ =>
      .some (row (f4 := 8#4) h12 rfl rfl rfl)
  · have h12 : h.extractLsb' 12 1 = 1#1 := by bv_omega
    exact .ite (fun hr2 => .ite (fun hr1 => .some (row (f4 := 9#4) h12 hr1 hr2 rfl)) fun _ =>
        .some (row (f4 := 9#4) h12 rfl hr2 rfl)) fun _ =>
      .some (row (f4 := 9#4) h12 rfl rfl rfl)

theorem decodeQ2_encodedAs (hq : h.extractLsb' 0 2 = 2#2) : OnlyEncodedAs (half h) (decodeQ2 h) :=
  .ite (fun hf3 => .some (encCI_of_fields hq hf3 rfl rfl)) fun _ =>
  .ite (fun hf3 => .guardRow (cLwsp_bits_of_fields hq hf3 rfl)) fun _ =>
  .ite (fun hf3 => .guardRow (cLdsp_bits_of_fields hq hf3 rfl)) fun _ =>
  .ite (fun hf3 => decodeQ2Reg_encodedAs hq hf3) fun _ =>
  .ite (fun hf3 => .some (cSwsp_bits_of_fields hq hf3 rfl)) fun _ =>
  .ite (fun hf3 => .some (cSdsp_bits_of_fields hq hf3 rfl)) fun _ => .none

/-- A halfword is the encoding of what it decodes to. -/
theorem decode16_encodedAs (h : BitVec 16) : OnlyEncodedAs (half h) (decode16 h) :=
  .ite decodeQ0_encodedAs fun _ => .ite decodeQ1_encodedAs fun _ => .ite decodeQ2_encodedAs fun _ => .none
end

/-! ## What fetched bits decode to -/

/-- Halfwords decode to compressed instructions, whose bits are theirs. -/
theorem decodeBits_half {w : Bits} {i : Instr} (hlow : w.extractLsb' 0 2 ≠ 3#2) (hd : decodeBits w = some i) :
    i.bits = half (w.extractLsb' 0 16) :=
  decode16_encodedAs _ i ((if_neg hlow).symm.trans hd)

theorem half_extractLsb' (w : Bits) : half (w.extractLsb' 0 16) = w &&& 0xFFFF#32 := by
  refine append_eq_iff.2 ⟨?_, ?_⟩
  · simp [BitVec.extractLsb'_and]
  · rw [BitVec.extractLsb'_and]
    exact (BitVec.and_allOnes ..).symm

theorem decodeBits_word {w : Bits} (hlow : w.extractLsb' 0 2 = 3#2) : decodeBits w = decode32 w := if_pos hlow

theorem decMiscMem_ext {f3 : BitVec 3} {imm : BitVec 12} {i : Instr} (hd : decMiscMem f3 imm = some i) :
    i.ext = .i := by
  unfold decMiscMem at hd
  split_ifs at hd <;> cases hd <;> rfl

/-- The low two bits of fetched bits tell the length of what they decode to (R250). -/
theorem ext_of_decodeBits {w : Bits} {i : Instr} (hd : decodeBits w = some i) :
    i.ext = .c ↔ w.extractLsb' 0 2 ≠ 3#2 := by
  by_cases hlow : w.extractLsb' 0 2 = 3#2
  · rw [decodeBits_word hlow] at hd
    by_cases hop : w.extractLsb' 0 7 = 0x0F#7
    · have hf : decMiscMem (w.extractLsb' 12 3) (w.extractLsb' 20 12) = some i := by
        rw [← hd]
        simp [decode32, hop]
      simp [decMiscMem_ext hf, hlow]
    · rw [Instr.compressed_iff_low_bits, decode32_encodedAs hop i hd]
  · rw [Instr.compressed_iff_low_bits, decodeBits_half hlow hd, extractLsb'_half _ (by decide),
      extractLsb'_extractLsb' _ (by decide)]

end Sys2Proof
end

section
/-! The expansion of a compressed instruction (30_encoding R293, R294). -/

namespace Sys2Proof

theorem lowZero_signExtend {n m k : Nat} {v : BitVec n} (hk : k ≤ n) (h : lowZero k v = true) :
    lowZero k (v.signExtend m) = true := by
  rw [lowZero_iff] at h ⊢
  apply BitVec.eq_of_getLsbD_eq
  intro j hj
  have hbit : (v.extractLsb' 0 k).getLsbD j = false := by simp [h]
  simp only [BitVec.getLsbD_extractLsb', hj, decide_true, Bool.true_and, Nat.zero_add] at hbit ⊢
  rw [BitVec.getLsbD_signExtend, if_pos (show j < n by omega), hbit]
  simp

/-- The expansion is no compressed instruction (R293). -/
theorem Instr.expansion_ext (i : Instr) : i.expansion.ext ≠ .c := by
  cases i <;> exact nofun

theorem Instr.expansion_of_not_compressed {i : Instr} (hc : i.ext ≠ .c) : i.expansion = i := by
  cases i with
  | cAddi4spn | cLw | cLd | cSw | cSd | cNop | cAddi | cAddiw | cLi | cAddi16sp | cLui | cSrli | cSrai | cAndi | cSub
  | cXor | cOr | cAnd | cSubw | cAddw | cJ | cBeqz | cBnez | cSlli | cLwsp | cLdsp | cJr | cMv | cEbreak | cJalr | cAdd
  | cSwsp | cSdsp => exact absurd rfl hc
  | _ => rfl

/-- Only a jump's or a branch's expansion is constrained: its offset is the compressed one's, sign-extended. -/
theorem Instr.expansion_wellFormed {i : Instr} (hw : i.wellFormed = true) : i.expansion.wellFormed = true := by
  by_cases hc : i.ext = .c
  · obtain ⟨hoff, -, -, -⟩ := i.wellFormed_iff.1 hw
    cases i with
    | cJ | cBeqz | cBnez =>
      exact (Instr.wellFormed_iff _).2 ⟨lowZero_signExtend (by decide) hoff, rfl, rfl, rfl⟩
    | cAddi4spn | cLw | cLd | cSw | cSd | cNop | cAddi | cAddiw | cLi | cAddi16sp | cLui | cSrli | cSrai | cAndi | cSub
    | cXor | cOr | cAnd | cSubw | cAddw | cSlli | cLwsp | cLdsp | cJr | cMv | cEbreak | cJalr | cAdd | cSwsp
    | cSdsp => rfl
    | _ => cases hc
  · rwa [Instr.expansion_of_not_compressed hc]

theorem decodeBits_of_decodeWith {c : Machine.Config} {w : Bits} {i : Instr} (h : decodeWith c w = .ok i) :
    decodeBits w = some i := by
  unfold decodeWith at h
  split at h
  · cases h
  · next j hj =>
    split at h
    · cases h
      exact hj
    · cases h

theorem decodedInstruction_ok {c : Machine.Config} {w : Bits} {pc : Word} {d : DecodedInstruction}
    (h : decodedInstruction c w pc = .ok d) :
    ∃ i, decodeBits w = some i ∧ d = { op := i.expansion, width := i.len, addr := pc, bits := w } := by
  unfold decodedInstruction at h
  split at h
  · next i hi =>
    cases h
    exact ⟨i, decodeBits_of_decodeWith hi, rfl⟩
  · cases h

theorem len_of_decodeBits {w : Bits} {i : Instr} (hd : decodeBits w = some i) :
    i.len = if w.extractLsb' 0 2 = 3#2 then 4 else 2 := by
  simp [Instr.len, ext_of_decodeBits hd]

/-- Settles O3: the low two bits choose the decoder; each row's fields make up the word again; and an expansion keeps
what its row demands. -/
theorem decodedWordsAreEncodings : Obligations.DecodedWordsAreEncodings := by
  refine ⟨fun w i hd => ⟨decodeBits_wellFormed w i hd, ext_of_decodeBits hd⟩,
    fun w i hd => ⟨fun hc => ?_, fun hc hop => ?_⟩, fun c w pc d h => ?_⟩
  · rw [decodeBits_half ((ext_of_decodeBits hd).1 hc) hd, half_extractLsb']
  · have hlow : w.extractLsb' 0 2 = 3#2 := not_not.1 (mt (ext_of_decodeBits hd).2 hc)
    exact decode32_encodedAs hop i (decodeBits_word hlow ▸ hd)
  · obtain ⟨i, hd, rfl⟩ := decodedInstruction_ok h
    refine ⟨Instr.expansion_wellFormed (decodeBits_wellFormed w i hd), i.expansion_ext, len_of_decodeBits hd, rfl,
      rfl, fun hlow => ?_, fun _ => by rw [hd]; rfl⟩
    rw [Instr.expansion_of_not_compressed fun hc => (ext_of_decodeBits hd).1 hc hlow]
    exact hd

end Sys2Proof
end

section
/-! How every instruction ends, whatever its operands and the state, and with it every step of an admitted hart: the
handler's result is finished, what does not retire is undone, and no operation sets the parameters (40_step_protocol
R302, R303, R308, R342; 00_scope R8). -/

namespace Sys2Proof.Machine

/-! ## Handler bodies keep the parameters -/

/-- A handler that completes has kept the parameters; the other results are undone. -/
def Handled.KeepsConfig (s : State) : Handled → Prop
  | .ok t => t.cfg = s.cfg
  | .raise _ _ _ | .trip _ _ | .debug _ _ => True

theorem Handled.KeepsConfig.finish {s : State} {h : Handled} (hk : h.KeepsConfig s) : (s.finish h).cfg = s.cfg := by
  cases h with
  | ok t =>
    unfold State.finish
    dsimp only
    split
    · simp
    · exact hk
  | raise | trip | debug => simp [State.finish]

section
variable (s : State)

theorem keepsConfig_jumpBody (rd : Reg) (t : Word) : (s.jumpBody rd t).KeepsConfig s := by
  unfold State.jumpBody
  split
  · simp [Handled.KeepsConfig]
  · trivial

theorem keepsConfig_branchBody (taken : Bool) (t : Word) : (s.branchBody taken t).KeepsConfig s := by
  unfold State.branchBody
  split
  · split
    · exact State.setNextPc_cfg s t
    · trivial
  · rfl

theorem keepsConfig_loadBody (n : Nat) (e : LoadExt) (rd : Reg) (a : Word) :
    (s.loadBody n e rd a).KeepsConfig s := by
  unfold State.loadBody
  dsimp only
  split
  · trivial
  · split
    · trivial
    · next hr => simp [Handled.KeepsConfig, (Effects.memRead hr).1.same.1]

theorem keepsConfig_storeBody (n : Nat) (a v : Word) : (s.storeBody n a v).KeepsConfig s := by
  unfold State.storeBody
  dsimp only
  split
  · trivial
  · split
    · trivial
    · next hw => simp [Handled.KeepsConfig, (Effects.memWrite hw).1.same.1]

theorem keepsConfig_csrBody (op : CsrOp) (rd : Reg) (n : CsrNum) (m : Word) (w : Bool) (bits : Bits) :
    (s.csrBody op rd n m w bits).KeepsConfig s := by
  unfold State.csrBody
  split
  · trivial
  · show (State.writeX _ _ _).cfg = s.cfg
    split <;> simp

theorem keepsConfig_ebreakBody : s.ebreakBody.KeepsConfig s := by
  unfold State.ebreakBody
  split <;> trivial

theorem keepsConfig_mretBody : s.mretBody.KeepsConfig s := by
  unfold State.mretBody
  split
  · exact s.returnM_cfg
  · trivial

theorem keepsConfig_sretBody : s.sretBody.KeepsConfig s := by
  unfold State.sretBody
  split
  · trivial
  · exact s.returnS_cfg

theorem keepsConfig_wfiBody : s.wfiBody.KeepsConfig s := by
  unfold State.wfiBody
  split
  · trivial
  · rfl

theorem keepsConfig_sfenceBody (rs1 rs2 : Reg) : (s.sfenceBody rs1 rs2).KeepsConfig s := by
  unfold State.sfenceBody
  split
  · trivial
  · rfl

end

/-! ## How an instruction ends -/

/-- The instruction begins with its own width and finishes a handler's result, which keeps the parameters. -/
def Finishes (i : Instr) (s : State) : Prop :=
  ∃ h, exec i s = .next ((s.startInstr i.len).finish h) ∧ h.KeepsConfig (s.startInstr i.len)

theorem Finishes.of_retireX {i : Instr} {s : State} {rd : Reg} {v : Word}
    (h : exec i s = .next (s.retireX i.len rd v)) : Finishes i s :=
  ⟨.ok ((s.startInstr i.len).writeX rd v), by rw [h, State.finish_ok (by simp), State.retireX],
    State.writeX_cfg ..⟩

theorem Finishes.of_retireNop {i : Instr} {s : State} (h : exec i s = .next (s.retireNop i.len)) : Finishes i s :=
  ⟨.ok (s.startInstr i.len), h, rfl⟩

/-- Every instruction, decoded or not, ends by finishing a handler's result. -/
theorem exec_finishes (i : Instr) (s : State) : Finishes i s := by
  cases i with
  | lui | auipc | addi | slti | sltiu | xori | ori | andi | slli | srli | srai | add | sub | sll | slt | sltu
  | xor | srl | sra | or | and | addiw | slliw | srliw | sraiw | addw | subw | sllw | srlw | sraw | mul | mulh
  | mulhsu | mulhu | div | divu | rem | remu | mulw | divw | divuw | remw | remuw | cAddi4spn | cAddi | cAddiw
  | cLi | cAddi16sp | cLui | cSrli | cSrai | cAndi | cSub | cXor | cOr | cAnd | cSubw | cAddw | cSlli | cMv
  | cAdd => exact .of_retireX rfl
  | fence | fenceI | cNop => exact .of_retireNop rfl
  | jal | cJ | jalr | cJr | cJalr => exact ⟨_, rfl, keepsConfig_jumpBody ..⟩
  | beq | bne | blt | bge | bltu | bgeu | cBeqz | cBnez => exact ⟨_, rfl, keepsConfig_branchBody ..⟩
  | lb | lh | lw | ld | lbu | lhu | lwu | cLw | cLd | cLwsp | cLdsp => exact ⟨_, rfl, keepsConfig_loadBody ..⟩
  | sb | sh | sw | sd | cSw | cSd | cSwsp | cSdsp => exact ⟨_, rfl, keepsConfig_storeBody ..⟩
  | csrrw | csrrs | csrrc | csrrwi | csrrsi | csrrci => exact ⟨_, rfl, keepsConfig_csrBody ..⟩
  | ecall | dret => exact ⟨_, rfl, trivial⟩
  | ebreak | cEbreak => exact ⟨_, rfl, keepsConfig_ebreakBody _⟩
  | mret => exact ⟨_, rfl, keepsConfig_mretBody _⟩
  | sret => exact ⟨_, rfl, keepsConfig_sretBody _⟩
  | wfi => exact ⟨_, rfl, keepsConfig_wfiBody _⟩
  | sfenceVma => exact ⟨_, rfl, keepsConfig_sfenceBody ..⟩

/-- What does not retire is undone, and then either an exception is taken or debug mode is entered (R308, R342, R772). -/
theorem State.finish_unretired {s : State} {h : Handled} (hr : (s.finish h).ctx.retired = false) :
    ∃ u, (∃ e, s.finish h = (s.undo u).takeTrap e) ∨ ∃ c p, s.finish h = (s.undo u).enterDebug c p := by
  have action (u : State) (t : Trip) (p : Word) :
      (∃ e, (s.undo u).triggerAction t p = (s.undo u).takeTrap e)
        ∨ ∃ c q, (s.undo u).triggerAction t p = (s.undo u).enterDebug c q := by
    unfold State.triggerAction
    split
    · exact .inr ⟨_, _, rfl⟩
    · exact .inl ⟨_, rfl⟩
  cases h with
  | ok t =>
    unfold State.finish at hr ⊢
    dsimp only at hr ⊢
    split at hr
    · exact ⟨t, action t _ _⟩
    · cases hr
  | raise e tval t => exact ⟨t, .inl ⟨_, rfl⟩⟩
  | trip tr t => exact ⟨t, action t _ _⟩
  | debug c t => exact ⟨t, .inr ⟨_, _, rfl⟩⟩

/-- Settles O48: the undo puts the visible state back, and neither an exception nor debug entry touches it. -/
theorem unretiredInstructionChangesNothingVisible : Obligations.UnretiredInstructionChangesNothingVisible := by
  intro s t i ht hr
  obtain ⟨h, he, -⟩ := exec_finishes i s
  obtain rfl : (s.startInstr i.len).finish h = t := Host.Outcome.next.inj (he.symm.trans ht)
  obtain ⟨u, ⟨e, hu⟩ | ⟨c, p, hu⟩⟩ := State.finish_unretired hr
  · simp [hu]
  · simp [hu]

/-! ## Every step completes -/

/-- The outcome is a next state with the parameters of `s`. -/
def CompletesFrom (s : State) (o : Outcome) : Prop := ∃ t, o = .next t ∧ t.cfg = s.cfg

theorem CompletesFrom.next {s t : State} (h : t.cfg = s.cfg) : CompletesFrom s (.next t) := ⟨t, rfl, h⟩

theorem exec_completes (i : Instr) (s : State) : CompletesFrom s (exec i s) := by
  obtain ⟨h, he, hk⟩ := exec_finishes i s
  rw [he]
  exact .next hk.finish

theorem State.decodeAndRun_completes (s : State) (bits : Bits) : CompletesFrom s (s.decodeAndRun bits) := by
  unfold State.decodeAndRun
  split
  · exact .next (State.takeTrap_cfg ..)
  · exact exec_completes _ s

theorem State.runFetched_completes (s : State) (bits : Bits) : CompletesFrom s (s.runFetched bits) := by
  unfold State.runFetched
  dsimp only
  split
  · exact .next (by simp)
  · obtain ⟨t, ht, hc⟩ := State.decodeAndRun_completes _ bits
    exact ⟨t, ht, by simpa using hc⟩

theorem State.executeOne_completes (s : State) : CompletesFrom s s.executeOne := by
  unfold State.executeOne
  dsimp only
  split
  · exact .next (by simp)
  · split
    · exact .next (by simp)
    · obtain ⟨t, ht, hc⟩ := State.runFetched_completes _ _
      exact ⟨t, ht, by simpa using hc⟩

theorem State.branchStep_completes (s : State) : CompletesFrom s s.branchStep := by
  unfold State.branchStep
  split
  · exact .next (by simp)
  · split
    · exact .next (by simp)
    · split
      · exact .next (by simp)
      · exact State.executeOne_completes _

theorem State.runStep_completes (s : State) : CompletesFrom s s.runStep := by
  obtain ⟨t, ht, hc⟩ := s.beginStep.branchStep_completes
  unfold State.runStep
  rw [ht]
  exact .next ((Effects.closeStep t).same.1.trans (hc.trans s.beginStep_cfg))

/-- Settles O7: an idle hart answers its own state, and every branch of a running hart's step completes. -/
theorem admittedStepAlwaysCompletes : Obligations.AdmittedStepAlwaysCompletes := by
  intro s ha
  show CompletesFrom s (step s)
  unfold step State.stepAny State.stepAdmitted
  rw [if_pos ha]
  split
  · exact .next rfl
  · split
    · exact .next rfl
    · split
      · exact .next rfl
      · exact s.runStep_completes

end Sys2Proof.Machine
end

section
/-! A step that reaches the decoder: with no execute trigger set, what the fetched bits decode to decides the step, an
instruction by running in the prepared state and bits that decode to nothing by a trap (40_step_protocol R302 to R304,
R308). -/

namespace Sys2Proof.Machine

/-! ## From the start of a step to the decoder -/

theorem State.executeOne_of_fetch {s : State} {bits : Bits} {len : Nat} (q : s.quiet .execAddr = true)
    (hf : s.fetchInstr = .ok bits len) : s.executeOne = s.runFetched bits := by
  simp [State.executeOne, State.triggerEval_quiet q, hf]

theorem State.runFetched_of_quiet {s : State} (bits : Bits) (q : s.quiet .execOpcode = true) :
    s.runFetched bits
      = State.decodeAndRun { s with tick := s.tick + 1, ctx := { s.ctx with bits := bits } } bits := by
  have q' : State.quiet { s with tick := s.tick + 1, ctx := { s.ctx with bits := bits } } .execOpcode = true := q
  simp [State.runFetched, State.triggerEval_quiet q']

/-- A step that fetches `bits` answers what decoding and running them in the prepared state does, ended. -/
theorem State.StartsInstr.step_eq {s t : State} {bits : Bits} {len : Nat} (hs : s.StartsInstr)
    (hf : s.beginStep.fetch s.pc = .ok bits len) (h : (s.prepared bits).decodeAndRun bits = .next t) :
    step s = .next t.closeStep := by
  obtain ⟨ha, hd, hg, hstop, hhalt, hnmi, hirq, q1, q2⟩ := hs
  have quiet (k : TrigKind) (c : Ctx) : State.quiet { s.beginStep with ctx := c } k = s.quiet k := by
    simp [State.quiet]
  have fetched : State.fetchInstr { s.beginStep with ctx := { attempted := true } } = .ok bits len := by
    rw [← s.beginStep_pc] at hf
    exact (State.fetch_ctx s.beginStep _ _).trans hf
  have branch : s.beginStep.branchStep = State.executeOne { s.beginStep with ctx := { attempted := true } } := by
    unfold State.branchStep
    simp only [hirq]
    simp [State.beginStep, hhalt, hnmi]
  refine step_of_branch ha hd hg hstop ?_
  rw [branch, State.executeOne_of_fetch ((quiet _ _).trans q1) fetched,
    State.runFetched_of_quiet _ ((quiet _ _).trans q2)]
  exact h

/-- Settles O4: the decoded instruction is what decoding and running the bits executes. -/
theorem stepRunsTheDecodedInstruction : Obligations.StepRunsTheDecodedInstruction := by
  intro s t bits len i hs hf hd he
  have hc : (s.prepared bits).cfg = s.cfg := s.beginStep_cfg
  exact hs.step_eq hf (by simp only [State.decodeAndRun, hc, hd, he])

/-! ## Bits that decode to nothing -/

/-- Bits that decode to nothing raise illegal instruction at the pc (R304). -/
theorem State.decodeAndRun_error {s : State} {bits : Bits} {e : DecodeError} (h : decodeWith s.cfg bits = .error e) :
    s.decodeAndRun bits = .next (s.takeTrap (.exception .illegal (s.cfg.illegalValue bits) s.pc)) := by
  simp only [State.decodeAndRun, h]

/-- An exception in M mode is taken to M mode, at the base of `mtvec` (R691, R694). -/
theorem State.takeTrap_machine {s : State} (h : s.priv = .m) (c : Exc) (tv p : Word) :
    s.takeTrap (.exception c tv p)
      = (s.enterM (.exception c tv p) (vectorBase s.csr.mtvec)).noteTrap (.exception c tv p) := by
  rw [State.takeTrap_exception, if_pos (by simp [State.targetMode, h])]

/-- The end of a step whose instruction did not retire, with no single step pending: only `mcycle`, the count of
attempted instructions and the stop state can move (R315, R320). -/
theorem State.closeStep_unretired {s : State} (h : s.ctx.retired = false) (hs : s.stepPending = false) :
    ∃ m n d r, s.closeStep
      = { s with csr := { s.csr with mcycle := m }, execCount := n, done := d, stopReason := r, ctx := {} } := by
  obtain ⟨m, hm⟩ : ∃ m, s.countCycle = { s with csr := { s.csr with mcycle := m } } := by
    unfold State.countCycle
    split <;> exact ⟨_, rfl⟩
  obtain ⟨n, hn⟩ : ∃ n, s.endStep = { s with csr := { s.csr with mcycle := m }, execCount := n } := by
    rw [State.endStep_unretired h hs, hm]
    split <;> exact ⟨_, rfl⟩
  obtain ⟨d, r, hr⟩ := s.endStep.stopCheck_eq
  exact ⟨m, n, d, r, by rw [State.closeStep, hr, hn]⟩

/-- The prepared state is `s` but for the sampled inputs and the step's own record. -/
theorem State.prepared_eq (s : State) (bits : Bits) :
    ∃ v c k, s.prepared bits = { s with csr := { s.csr with mip := v }, ctx := c, tick := k } := by
  unfold State.prepared State.beginStep State.sampleInputs
  split <;> exact ⟨_, _, _, rfl⟩

/-- Settles O6: the trap is taken in the prepared state, and the end of the step touches nothing the statement names. -/
theorem illegalBitsTrapInMachineMode : Obligations.IllegalBitsTrapInMachineMode := by
  intro s bits len e hs hm hstep hf hd
  obtain ⟨v, c, k, hp⟩ := s.prepared_eq bits
  have trap := State.decodeAndRun_error (s := s.prepared bits) (bits := bits) (by rw [hp]; exact hd)
  obtain ⟨m, n, d, r, close⟩ := State.closeStep_unretired
    (s := (s.prepared bits).takeTrap
      (.exception .illegal ((s.prepared bits).cfg.illegalValue bits) (s.prepared bits).pc))
    (by simp [State.prepared]) (by simp [hp, hstep])
  refine ⟨_, hs.step_eq hf trap, ?_⟩
  rw [close, State.takeTrap_machine (by rw [hp]; exact hm), hp]
  exact ⟨rfl, rfl, rfl, rfl, rfl, rfl, rfl, rfl, rfl, rfl⟩

end Sys2Proof.Machine
end

section
/-! The host's access to registers, the pc and CSRs: the poke masks that are not the write masks, the pokes that change
nothing, and the calls that fail (40_step_protocol R311, R312; 45_csr_access R520, R522; 61_debug_triggers R758). -/

namespace Sys2Proof.Machine

/-! ## Registers -/

theorem State.setX_frame (s : State) (r : Reg) (v : Word) : s.setX r v = { s with x := (s.setX r v).x } := by
  unfold State.setX
  split <;> rfl

/-- A poke of a register that has storage changes that register. -/
theorem State.readX_poke (s : State) (v : Word) {i : Nat} (h1 : 1 ≤ i) (h31 : i ≤ 31) (q : Reg) :
    (s.setX (BitVec.ofNat 5 i) v).readX q = if q.toNat = i then v else s.readX q := by
  have hi : (BitVec.ofNat 5 i).toNat = i := by simp only [BitVec.toNat_ofNat]; omega
  have hne : BitVec.ofNat 5 i ≠ 0#5 := fun h => by rw [h] at hi; simp at hi; omega
  rw [State.readX_setX]
  simp only [hne, ne_eq, not_false_eq_true, and_true, ← BitVec.toNat_inj, hi]

theorem Config.epcMask_eq (c : Config) : c.epcMask = if c.extC then ~~~1#64 else ~~~3#64 := by
  unfold Config.epcMask
  split <;> decide

/-! ## Pokes of CSRs -/

/-- A poke of an implemented CSR other than `tdata1` stores the value; only `tdata1` can fail (R520, R758). -/
theorem State.pokeCsr_of_ne_tdata1 {s : State} {n : CsrNum} {r : Csr} (h : s.csrOf n = some r) (hr : r ≠ .tdata1)
    (v : Word) : s.pokeCsr n v = some (s.csrStore true r v) := by
  simp [State.pokeCsr, h, State.pokeFails, hr]

/-- The bits of `dcsr` the host may poke: those an instruction could write, and `cause` (R140, R522). -/
theorem State.pokeMask_dcsr (s : State) : s.pokeMask .dcsr
    = 0x8FD7#64 ||| (if s.cfg.extS then 0x2000#64 else 0#64) ||| (if s.cfg.extU then 0x1000#64 else 0#64) := by
  show s.cfg.dcsrMask ||| 0x1C0#64 = _
  unfold Config.dcsrMask maskIf
  cases s.cfg.extS <;> cases s.cfg.extU <;> rfl

/-- Legalisation of `dcsr` touches only `prv` (R140). -/
theorem getLsbD_legalDcsr (c : Config) (old new : Word) {j : Nat} (h : 2 ≤ j) :
    (legalDcsr c old new).getLsbD j = new.getLsbD j := by
  have h3 : (3#64).getLsbD j = false := (getLsbD_ones 2 j).trans (decide_eq_false (by omega))
  unfold legalDcsr
  split
  · rfl
  · rw [getLsbD_merge, h3]; rfl

theorem prv_legalDcsr (c : Config) (old new : Word) : (legalDcsr c old new).extractLsb' 0 2
    = if c.modeLegal (new.extractLsb' 0 2) then new.extractLsb' 0 2 else old.extractLsb' 0 2 := by
  unfold legalDcsr
  split
  · rfl
  · exact low2_merge new old

/-- A merge under a mask that covers `prv` takes the new mode. -/
theorem prv_merge {mask : Word} (old new : Word) (h0 : mask.getLsbD 0 = true) (h1 : mask.getLsbD 1 = true) :
    (merge old new mask).extractLsb' 0 2 = new.extractLsb' 0 2 := by
  apply BitVec.eq_of_getLsbD_eq
  intro i hi
  simp only [BitVec.getLsbD_extractLsb', Nat.zero_add, getLsbD_merge]
  interval_cases i
  · rw [if_pos h0]
  · rw [if_pos h1]

/-- The bits of `claimid` as `meihap` shows them are those of its poke mask (R147, R522). -/
theorem claimid_merge (old new : Word) : (merge old new 0x3FC#64).extractLsb' 2 8 = new.extractLsb' 2 8 := by
  apply BitVec.eq_of_getLsbD_eq
  intro i hi
  simp only [BitVec.getLsbD_extractLsb', getLsbD_merge]
  interval_cases i <;> rfl

/-- The CSRs that hold nothing the host can set: their poke mask is 0 in every configuration, and a write has no side
effect (R522). -/
def Csr.HostReadOnly (r : Csr) : Prop :=
  r ∈ [Csr.misa, .tdata3, .tinfo, .cycle, .time, .instret, .mvendorid, .marchid, .mimpid, .mhartid]
    ∨ ∃ i, r = .hpmcounter i

theorem Csr.HostReadOnly.ofNum_num {r : Csr} (h : r.HostReadOnly) : Csr.ofNum r.num = some r := by
  obtain h | ⟨i, rfl⟩ := h
  · revert r
    decide
  · revert i
    decide

theorem Csr.HostReadOnly.csrStore {r : Csr} (h : r.HostReadOnly) (s : State) (v : Word) :
    s.csrStore true r v = s := by
  cases r with
  | misa | tdata3 | tinfo | cycle | time | instret | hpmcounter | mvendorid | marchid | mimpid | mhartid => rfl
  | _ => simp [Csr.HostReadOnly] at h

theorem Csr.HostReadOnly.ne_tdata1 {r : Csr} (h : r.HostReadOnly) : r ≠ .tdata1 := by
  rintro rfl
  simp [Csr.HostReadOnly] at h

section
variable (s : State) (v : Word)

/-- The host drives every interrupt-pending bit the configuration has (R522). -/
theorem State.pokeCsr_mip : ∃ t, s.pokeCsr 0x344#12 v = some t
    ∧ (∀ j, t.csr.mip.getLsbD j = if (if s.cfg.extS then 0xAAA#64 else 0x888#64).getLsbD j then v.getLsbD j
        else s.csr.mip.getLsbD j)
    ∧ t = { s with csr := { s.csr with mip := t.csr.mip } } :=
  ⟨_, State.pokeCsr_of_ne_tdata1 (r := .mip) rfl (by decide) v, fun _ => getLsbD_merge _ _ _ _, rfl⟩

theorem State.pokeCsr_dcsr :
    let mask := 0x8FD7#64 ||| (if s.cfg.extS then 0x2000#64 else 0#64) ||| (if s.cfg.extU then 0x1000#64 else 0#64)
    ∃ t, s.pokeCsr 0x7B0#12 v = some t
      ∧ (∀ j, 2 ≤ j → t.csr.dcsr.getLsbD j = if mask.getLsbD j then v.getLsbD j else s.csr.dcsr.getLsbD j)
      ∧ t.csr.dcsr.extractLsb' 0 2
          = (if s.cfg.modeLegal (v.extractLsb' 0 2) then v.extractLsb' 0 2 else s.csr.dcsr.extractLsb' 0 2)
      ∧ t = { s with csr := { s.csr with dcsr := t.csr.dcsr } } := by
  intro mask
  have stored : (s.csrStore true .dcsr v).csr.dcsr = legalDcsr s.cfg s.csr.dcsr (merge s.csr.dcsr v mask) :=
    congrArg (fun m => legalDcsr s.cfg s.csr.dcsr (merge s.csr.dcsr v m)) s.pokeMask_dcsr
  refine ⟨_, State.pokeCsr_of_ne_tdata1 (r := .dcsr) rfl (by decide) v, fun j hj => ?_, ?_, rfl⟩
  · rw [stored, getLsbD_legalDcsr _ _ _ hj, getLsbD_merge]
  · have prv : (merge s.csr.dcsr v mask).extractLsb' 0 2 = v.extractLsb' 0 2 :=
      prv_merge _ _ (by simp [mask]) (by simp [mask])
    rw [stored, prv_legalDcsr, prv]

theorem State.pokeCsr_mdseac : s.pokeCsr 0xFC0#12 v = some { s with csr := { s.csr with mdseac := v } } := by
  rw [State.pokeCsr_of_ne_tdata1 (r := .mdseac) rfl (by decide)]
  show some { s with csr := { s.csr with mdseac := merge s.csr.mdseac v allOnes } } = _
  rw [merge_allOnes]

theorem State.pokeCsr_meihap :
    s.pokeCsr 0xFC8#12 v = some { s with csr := { s.csr with claimid := v.extractLsb' 2 8 } } := by
  rw [State.pokeCsr_of_ne_tdata1 (r := .meihap) rfl (by decide)]
  show some { s with csr := { s.csr with claimid := (merge _ v 0x3FC#64).extractLsb' 2 8 } } = _
  rw [claimid_merge]

end

/-- A poke of a CSR that shows no state of its own changes nothing (R522). -/
theorem State.pokeCsr_hostReadOnly (s : State) (v : Word) {r : Csr} (h : r.HostReadOnly)
    (hp : r.present s.cfg = true) : s.pokeCsr r.num v = some s := by
  have hn : s.csrOf r.num = some r := by simp [State.csrOf, h.ofNum_num, hp]
  rw [State.pokeCsr_of_ne_tdata1 hn h.ne_tdata1, h.csrStore]

/-- Where chains start at even slots, a poke that would chain an odd slot fails (R758). -/
theorem State.pokeCsr_tdata1_odd {s : State} {v : Word} (h0 : 0 < s.cfg.numTriggers)
    (heo : s.cfg.triggerEvenOdd = true) (hodd : s.csr.tselect.toNat % 2 = 1)
    (hlast : s.csr.tselect.toNat + 1 ≠ s.cfg.numTriggers) (ht : trigType v = 2#4) (hc : v.getLsbD 11 = true) :
    s.pokeCsr 0x7A1#12 v = none := by
  have hn : s.csrOf 0x7A1#12 = some .tdata1 := if_pos (decide_eq_true h0)
  have hf : s.pokeFails .tdata1 v = true := by simp [State.pokeFails, chainPokeFails, ht, hc, heo, hodd, hlast]
  simp [State.pokeCsr, hn, hf]

/-! ## Calls that fail -/

theorem State.answerRead_state (s : State) (v : Option Word) : (s.answerRead v).2 = s := by cases v <;> rfl

theorem State.answerWrite_failed {s : State} {t : Option State} (h : (s.answerWrite t).1 = .failed) :
    (s.answerWrite t).2 = s := by
  cases t with
  | none => rfl
  | some t => cases h

/-- A call that fails changes nothing (R311). -/
theorem State.call_failed {s : State} {c : HostCall} (h : (s.call c).1 = .failed) : (s.call c).2 = s := by
  cases c with
  | peekX | peekCsr | peekCsrNamed => exact s.answerRead_state _
  | pokeX | pokeCsr | pokeCsrNamed | pokeMem | resume => exact State.answerWrite_failed h
  | peekMem a n =>
    unfold State.call at h ⊢
    dsimp only at h ⊢
    split at h
    · cases h
    · rfl
  | peekPc => rfl
  | _ => cases h

/-- Settles O56: register access by number, each CSR's poke by its mask, and the calls that fail. -/
theorem hostRegisterAndCsrAccess : Obligations.HostRegisterAndCsrAccess := by
  refine ⟨fun s i v =>
      ⟨fun h => if_pos h, fun h => ⟨if_neg (by omega), if_neg (by omega)⟩, rfl, fun h1 h31 => ?_, ?_⟩,
    fun s n v => ⟨fun h => ?_, fun r h => ?_, s.pokeCsr_mip v⟩,
    fun s v => ⟨s.pokeCsr_dcsr v, s.pokeCsr_mdseac v, s.pokeCsr_meihap v,
      fun r h hp => s.pokeCsr_hostReadOnly v h hp, State.pokeCsr_tdata1_odd⟩,
    fun s c => State.call_failed⟩
  · exact ⟨_, if_pos h31, s.readX_poke v h1 h31, s.setX_frame _ v⟩
  · show v &&& s.cfg.epcMask = _
    rw [s.cfg.epcMask_eq]
  · simp [State.peekCsr, State.pokeCsr, h]
  · simp [State.peekCsr, h]

end Sys2Proof.Machine
end

section
/-! The integer computational instructions: the result each writes, and that it writes nothing else (41_integer R350 to
R382). -/

namespace Sys2Proof.Machine

/-! ## The operations, as the rules state them -/

/-- The signed comparison of R354 and R365. -/
theorem boolWord_ltS (a b : Word) : boolWord (ltS a b) = if a.toInt < b.toInt then 1#64 else 0#64 := by
  simp only [ltS, BitVec.slt_eq_decide, boolWord, decide_eq_true_eq]

/-- The unsigned comparison of R355 and R366. -/
theorem boolWord_ltU (a b : Word) : boolWord (ltU a b) = if a.toNat < b.toNat then 1#64 else 0#64 := by
  simp only [ltU, BitVec.ult_eq_decide, boolWord, decide_eq_true_eq]

/-- A 64-bit shift counts the low 6 bits of its register (R382). -/
theorem shamt6_eq_mod (v : Word) : shamt6 v = v.toNat % 64 := BitVec.extractLsb'_toNat 0 6 v

/-- A 32-bit shift counts the low 5 bits of its register (R382). -/
theorem shamt5_eq_mod (v : Word) : shamt5 v = v.toNat % 32 := BitVec.extractLsb'_toNat 0 5 v

/-- The low half of an extended immediate is the immediate extended to 32 bits (R372). -/
theorem low32_sext (imm : BitVec 12) : low32 (sext imm) = imm.signExtend 32 := by
  apply BitVec.eq_of_getLsbD_eq
  intro i hi
  have h64 : i < 64 := by omega
  simp only [low32, sext, BitVec.getLsbD_setWidth, BitVec.getLsbD_signExtend, hi, h64, decide_true, Bool.true_and]

/-! ## The obligations -/

/-- Settles O9: each meaning is a register retirement, and the comparisons are the rules'. -/
theorem immediateInstructionResults : Obligations.ImmediateInstructionResults := by
  refine ⟨fun s rd rs1 imm => ⟨?addi, ?slti, ?sltiu, ?xori, ?ori, ?andi⟩,
    fun s rd imm => ⟨?lui, ?auipc⟩, fun s rd rs1 sh => ⟨?slli, ?srli, ?srai⟩⟩
  case slti => rw [← boolWord_ltS]; exact writesReg_of_retireX rfl
  case sltiu => rw [← boolWord_ltU]; exact writesReg_of_retireX rfl
  all_goals exact writesReg_of_retireX rfl

/-- Settles O10: each meaning is a register retirement, and only the low 6 bits of a shift amount count. -/
theorem registerArithmeticResults : Obligations.RegisterArithmeticResults := by
  intro s rd rs1 rs2 a b
  rw [← shamt6_eq_mod, ← boolWord_ltS, ← boolWord_ltU]
  refine ⟨?add, ?sub, ?sll, ?slt, ?sltu, ?xor, ?srl, ?sra, ?or, ?and⟩
  all_goals exact writesReg_of_retireX rfl

/-- Settles O11: each meaning is a register retirement of an extended 32-bit result, and only the low 5 bits of a shift
amount count. -/
theorem wordOperationResults : Obligations.WordOperationResults := by
  refine ⟨fun s rd rs1 imm => ?addiw, fun s rd rs1 sh => ⟨?slliw, ?srliw, ?sraiw⟩, fun s rd rs1 rs2 => ?register⟩
  case addiw => rw [← low32_sext]; exact writesReg_of_retireX rfl
  case register =>
    rw [← shamt5_eq_mod]
    refine ⟨?addw, ?subw, ?sllw, ?srlw, ?sraw⟩
    all_goals exact writesReg_of_retireX rfl
  all_goals exact writesReg_of_retireX rfl

end Sys2Proof.Machine
end

section
/-! The multiply and divide instructions: the result each writes, and that it writes nothing else, whatever the operands
(42_muldiv R400 to R415). -/

namespace Sys2Proof.Machine

/-! ## Products, computed on integers and then cut (R400) -/

/-- The low half of the signed product is the product of words, so it is the same for either sign of the operands
(R401). -/
theorem ofInt_mul_toInt {n : Nat} (a b : BitVec n) : BitVec.ofInt n (a.toInt * b.toInt) = a * b := by
  rw [BitVec.ofInt_mul, BitVec.ofInt_toInt, BitVec.ofInt_toInt]

/-- Bits 127:64 of a product are its quotient by `2 ^ 64`, rounded down (R402, R403). -/
theorem highHalf_eq (p : Int) : highHalf p = BitVec.ofInt 64 (p / 2 ^ 64) := by
  apply BitVec.eq_of_toNat_eq
  rw [highHalf, BitVec.extractLsb'_toNat, BitVec.toNat_ofInt, BitVec.toNat_ofInt, Nat.shiftRight_eq_div_pow]
  omega

/-- `highHalf_eq` for a product that is a natural number (R404). -/
theorem highHalf_natCast (p : Nat) : highHalf p = BitVec.ofNat 64 (p / 2 ^ 64) := by
  rw [highHalf_eq, ← BitVec.ofInt_natCast]
  rfl

/-! ## Division -/

/-- On signed overflow the dividend is the corner's fixed quotient (R414). -/
theorem ite_overflow_eq {n : Nat} (a b m c q : BitVec n) :
    (if a = m ∧ b = c then a else q) = if a = m ∧ b = c then m else q :=
  ite_congr rfl (fun overflow => overflow.1) fun _ => rfl

/-! ## The obligations -/

/-- Settles O12: each meaning is a register retirement, and the cut of the integer product is the rule's. -/
theorem multiplicationResults : Obligations.MultiplicationResults := by
  intro s rd rs1 rs2 a b
  rw [ofInt_mul_toInt, ← highHalf_eq, ← highHalf_eq, ← highHalf_natCast, Int.natCast_mul]
  refine ⟨?mul, ?mulh, ?mulhsu, ?mulhu, ?mulw⟩
  all_goals exact writesReg_of_retireX rfl

/-- Settles O13: each meaning is a register retirement, whichever corner of R414 the operands are in. -/
theorem divisionResults : Obligations.DivisionResults := by
  intro s rd rs1 rs2 a b corner
  rw [ite_overflow_eq]
  refine ⟨?div, ?divu, ?rem, ?remu⟩
  all_goals exact writesReg_of_retireX rfl

/-- Settles O14: the same, on the low halves of the operands and with the result extended (R415). -/
theorem wordDivisionResults : Obligations.WordDivisionResults := by
  intro s rd rs1 rs2 a b corner
  rw [ite_overflow_eq]
  refine ⟨?divw, ?divuw, ?remw, ?remuw⟩
  all_goals exact writesReg_of_retireX rfl

end Sys2Proof.Machine
end

section
/-! The jumps and the branches: where each goes, when it raises instruction address misaligned, and what it leaves
unchanged (43_control_transfer R430 to R441; 47_compressed R602 to R604, R608, R611). -/

namespace Sys2Proof.Machine

/-! ## Targets -/

/-- The alignment of R430 as the statements write it. -/
theorem State.targetOk_iff (s : State) (t : Word) :
    s.targetOk t = true ↔ s.cfg.extC = true ∨ t.getLsbD 1 = false := by
  simp [State.targetOk]

@[simp] theorem State.targetOk_startInstr (s : State) (len : Nat) (t : Word) :
    (s.startInstr len).targetOk t = s.targetOk t := rfl

/-- The target of a jump to a register with no offset (R608, R611). -/
theorem State.jalrTarget_zero (s : State) (rs1 : Reg) : s.jalrTarget rs1 0#64 = s.readX rs1 &&& ~~~1#64 := by
  rw [State.jalrTarget, BitVec.add_zero]

section
variable {i : Instr} {s : State} {len : Nat} {t : Word}

/-- The handler raises before it changes anything, so the exception is taken in the state as it was (R430). -/
theorem takesException_of_misaligned
    (h : exec i s = .next ((s.startInstr len).finish (.raise .instrMisaligned t (s.startInstr len)))) :
    TakesException i s .instrMisaligned t :=
  takesException_of_raise h rfl rfl

/-! ## Jumps -/

/-- A next pc of its own leaves the frame of a committed register write as it is. -/
theorem State.commit_writeX_setNextPc_same (s : State) (len : Nat) (rd : Reg) (v t : Word) :
    SameCore s (((s.startInstr len).writeX rd v).setNextPc t).commit
      ∧ SameOutside s (((s.startInstr len).writeX rd v).setNextPc t).commit :=
  have ⟨core, outside⟩ := s.retireX_same len rd v
  ⟨{ core with }, { outside with }⟩

/-- A committed link and target are a jump. -/
theorem jumpsTo_of_commit {rd : Reg}
    (h : exec i s = .next (((s.startInstr len).writeX rd (s.pc + BitVec.ofNat 64 len)).setNextPc t).commit) :
    JumpsTo i s len rd t := by
  obtain ⟨core, outside⟩ := s.commit_writeX_setNextPc_same len rd (s.pc + BitVec.ofNat 64 len) t
  refine ⟨_, h, rfl, rfl, fun q => ?link, s.commit_writeX_queue len rd _, core, outside⟩
  rw [State.readX_commit, State.readX_setNextPc, State.readX_writeX, State.readX_startInstr]

/-- What a jump does, by the alignment of its target (R430 to R432). -/
theorem jump_rule {rd : Reg} (h : exec i s = s.jump len rd t) :
    (s.cfg.extC = true ∨ t.getLsbD 1 = false → JumpsTo i s len rd t)
      ∧ (¬ (s.cfg.extC = true ∨ t.getLsbD 1 = false) → TakesException i s .instrMisaligned t) := by
  rw [← s.targetOk_iff]
  rw [State.jump, State.jumpBody, State.targetOk_startInstr] at h
  constructor
  · intro aligned
    rw [if_pos aligned, State.finish_ok (by simp)] at h
    exact jumpsTo_of_commit h
  · intro misaligned
    rw [if_neg misaligned] at h
    exact takesException_of_misaligned h

/-! ## Branches -/

/-- A committed target is a taken branch. -/
theorem branchesTo_of_commit (h : exec i s = .next ((s.startInstr len).setNextPc t).commit) : BranchesTo i s t := by
  refine ⟨_, h, rfl, rfl, rfl, rfl, ?core, ?outside⟩ <;> constructor <;> rfl

/-- What a branch does, by its condition and the alignment of its target (R430, R441). -/
theorem branch_rule {c : Cond} {rs1 rs2 : Reg} {off : Word} {cond : Prop} (h : exec i s = s.branch len c rs1 rs2 off)
    (hc : c.holds (s.readX rs1) (s.readX rs2) = true ↔ cond) :
    (¬ cond → OnlyMovesOn i s len)
      ∧ (cond → s.cfg.extC = true ∨ (s.pc + off).getLsbD 1 = false → BranchesTo i s (s.pc + off))
      ∧ (cond → ¬ (s.cfg.extC = true ∨ (s.pc + off).getLsbD 1 = false) →
          TakesException i s .instrMisaligned (s.pc + off)) := by
  rw [← hc, ← s.targetOk_iff]
  rw [State.branch, State.branchBody, State.targetOk_startInstr] at h
  refine ⟨?untaken, ?aligned, ?misaligned⟩
  case untaken =>
    intro untaken
    rw [if_neg untaken, State.finish_ok rfl] at h
    exact onlyMovesOn_of_commit h
  case aligned =>
    intro taken aligned
    rw [if_pos taken, if_pos aligned, State.finish_ok rfl] at h
    exact branchesTo_of_commit h
  case misaligned =>
    intro taken misaligned
    rw [if_pos taken, if_neg misaligned] at h
    exact takesException_of_misaligned h

end

/-! ### The conditions, as the rules state them (R433 to R438) -/

theorem Cond.holds_eq_iff (a b : Word) : Cond.eq.holds a b = true ↔ a = b := beq_iff_eq

theorem Cond.holds_ne_iff (a b : Word) : Cond.ne.holds a b = true ↔ a ≠ b := bne_iff_ne

theorem Cond.holds_lt_iff (a b : Word) : Cond.lt.holds a b = true ↔ a.toInt < b.toInt := BitVec.slt_iff_toInt_lt

theorem Cond.holds_ge_iff (a b : Word) : Cond.ge.holds a b = true ↔ b.toInt ≤ a.toInt := by
  simp [Cond.holds, ltS, BitVec.slt_eq_decide]

theorem Cond.holds_ltu_iff (a b : Word) : Cond.ltu.holds a b = true ↔ a.toNat < b.toNat := BitVec.ult_iff_toNat_lt

theorem Cond.holds_geu_iff (a b : Word) : Cond.geu.holds a b = true ↔ b.toNat ≤ a.toNat := by
  simp [Cond.holds, ltU, BitVec.ult_eq_decide]

/-! ## The obligations -/

/-- Settles O17: each meaning is a jump of its width to its target, the compressed ones linking in `x0` or `x1`. -/
theorem jumpsGoToTheirTargets : Obligations.JumpsGoToTheirTargets := by
  intro s rd rs1 j imm cj
  rw [← s.jalrTarget_zero]
  exact ⟨jump_rule rfl, jump_rule rfl, jump_rule rfl, jump_rule rfl, jump_rule rfl⟩

/-- Settles O18: each meaning is a branch of its width on its condition, and the compressed ones compare with `x0`. -/
theorem branchesFollowTheirConditions : Obligations.BranchesFollowTheirConditions := by
  intro s rs1 rs2 off r coff
  rw [← s.readX_zero]
  exact ⟨branch_rule rfl (Cond.holds_eq_iff ..), branch_rule rfl (Cond.holds_ne_iff ..),
    branch_rule rfl (Cond.holds_lt_iff ..), branch_rule rfl (Cond.holds_ge_iff ..),
    branch_rule rfl (Cond.holds_ltu_iff ..), branch_rule rfl (Cond.holds_geu_iff ..),
    branch_rule rfl (Cond.holds_eq_iff ..), branch_rule rfl (Cond.holds_ne_iff ..)⟩

end Sys2Proof.Machine
end

section
/-! The loads, the stores and the instructions that only move on: what each leaves when its checks pass, and the
exception it takes when they fail (44_load_store R460 to R477; 46_system R553; 47_compressed R582 to R587, R606, R607,
R613, R614). -/

namespace Sys2Proof.Machine

section
variable {i : Instr} {s : State} {len n : Nat} {rd rs1 rs2 : Reg} {off : Word}

/-! ## `wfi` -/

/-- `wfi` goes on in M mode, without U mode, or with TW 0. -/
theorem State.wfiBody_allowed (h : s.priv = .m ∨ s.cfg.extU = false ∨ s.csr.mstatus.getLsbD 21 = false) :
    s.wfiBody = .ok s := by
  refine if_neg fun ⟨below, user, wait⟩ => ?_
  rcases h with machine | noUser | noWait
  · exact below machine
  · exact Bool.false_ne_true (noUser.symm.trans user)
  · exact Bool.false_ne_true (noWait.symm.trans wait)

/-- Any other `wfi` is illegal. -/
theorem State.wfiBody_forbidden (h : ¬ (s.priv = .m ∨ s.cfg.extU = false ∨ s.csr.mstatus.getLsbD 21 = false)) :
    s.wfiBody = s.illegal Instr.wfi.bits :=
  if_pos (by simpa [State.status, mstatusTW] using h)

/-! ## Failed accesses -/

/-- A load whose checks fail raises before it changes anything (R476, R477). -/
theorem takesException_of_load {e : LoadExt} {c : Exc} (h : exec i s = s.load len n e rd rs1 off)
    (q : s.quiet .loadAddr = true) (failed : s.locate .load (s.readX rs1 + off) n = .error c) :
    TakesException i s c (s.readX rs1 + off) := by
  rw [← State.locate_startInstr s len] at failed
  rw [State.load, State.effAddr, State.loadBody_error failed q] at h
  exact takesException_of_raise h rfl rfl

/-- A store whose checks fail raises before it changes anything (R476, R477). -/
theorem takesException_of_store {c : Exc} (h : exec i s = s.store len n rs1 rs2 off) (q1 : s.quiet .storeAddr = true)
    (q2 : s.quiet .storeData = true) (failed : s.locate .store (s.readX rs1 + off) n = .error c) :
    TakesException i s c (s.readX rs1 + off) := by
  rw [← State.locate_startInstr s len] at failed
  rw [State.store, State.effAddr, State.storeBody_error failed q1 q2] at h
  exact takesException_of_raise h rfl rfl

/-! ## The parts of a load and of a store -/

@[simp] theorem State.addAfter_nil (s : State) : s.addAfter [] = s := by simp [State.addAfter]

@[simp] theorem State.readX_touch (s : State) (ps : List Word) (q : Reg) : (s.touch ps).readX q = s.readX q :=
  State.readX_congr (s.touch_x ps) q

section
variable (s : State) (n : Nat) (e : LoadExt) (rd : Reg) (a v : Word)

theorem State.readX_loadWrite (q : Reg) :
    (s.loadWrite n e rd a v).readX q = if q = rd ∧ rd ≠ 0#5 then e.extend n v else s.readX q :=
  s.readX_writeX rd q _

@[simp] theorem State.loadWrite_ctx_nextPc : (s.loadWrite n e rd a v).ctx.nextPc = s.ctx.nextPc :=
  s.writeX_ctx_nextPc rd _
@[simp] theorem State.loadWrite_ctx_afterTrips : (s.loadWrite n e rd a v).ctx.afterTrips = s.ctx.afterTrips :=
  s.writeX_ctx_afterTrips rd _
@[simp] theorem State.loadWrite_ctx_store : (s.loadWrite n e rd a v).ctx.store = s.ctx.store := s.writeX_ctx_store rd _
@[simp] theorem State.loadWrite_ctx_load : (s.loadWrite n e rd a v).ctx.load
    = some { size := n, addr := a, rd := rd, prior := s.readX rd } := rfl
@[simp] theorem State.loadWrite_ctx_wroteX : (s.loadWrite n e rd a v).ctx.wroteX
    = if rd = 0#5 then s.ctx.wroteX else some rd := by
  by_cases h : rd = 0#5
  · simp [State.loadWrite, State.writeX, h]
  · simp [State.loadWrite, State.writeX, h, toNat_ne_zero h]

end

section
variable (s : State) (n : Nat) (a v : Word) (w : Written)

@[simp] theorem State.noteStore_ctx_nextPc : (s.noteStore n a v w).ctx.nextPc = s.ctx.nextPc := rfl
@[simp] theorem State.noteStore_ctx_afterTrips : (s.noteStore n a v w).ctx.afterTrips = s.ctx.afterTrips := rfl
@[simp] theorem State.noteStore_ctx_load : (s.noteStore n a v w).ctx.load = s.ctx.load := rfl
@[simp] theorem State.noteStore_ctx_wroteX : (s.noteStore n a v w).ctx.wroteX = s.ctx.wroteX := rfl
@[simp] theorem State.noteStore_ctx_store : (s.noteStore n a v w).ctx.store
    = some { size := n, addr := a, prior := w.prior, phys := w.phys, value := v } := rfl

end

/-! ## Loads -/

/-- The load queue after the commit of a load. -/
theorem State.loadQueueAfter_loadWrite (hw : s.ctx.wroteX = none) (e : LoadExt) (a v : Word) :
    (s.loadWrite n e rd a v).loadQueueAfter = s.queueAfterLoad n rd a := by
  unfold State.loadQueueAfter State.queueAfterLoad
  rw [State.loadWrite_ctx_wroteX, State.loadWrite_ctx_load, hw]
  by_cases h : rd = 0#5 <;> simp [h, invalidateLoads, pushBounded]

/-- A load that passes its checks, with no load trigger set, writes its register and pushes its entry (R461, R801). -/
theorem loads_of_load (e : LoadExt) (h : exec i s = s.load len n e rd rs1 off) :
    Loads i s len n rd (s.readX rs1 + off) (e.extend n) := by
  intro ps located q1 q2
  rw [← State.locate_startInstr s len] at located
  rw [State.load, State.effAddr, State.loadBody_ok located q1 q2, State.addAfter_nil, State.finish_ok (by simp)] at h
  refine ⟨_, h, rfl, by simp, fun q => ?reg, ?queue, ?core, ?outside⟩
  case reg => rw [State.readX_commit, State.readX_loadWrite, State.readX_touch, State.readX_startInstr]; rfl
  case queue => exact (State.loadQueueAfter_loadWrite (by simp) e _ _).trans (by simp [State.queueAfterLoad])
  case core => constructor <;> simp
  case outside => constructor <;> simp [State.commit, State.storeQueueAfter, State.consoleAfter]

/-! ## Stores -/

/-- A byte of what a store of `n` bytes stores is the register's byte. -/
theorem getElem_leBytes_lowBytes (h8 : n ≤ 8) (v : Word) (k : Nat) (hk : k < (leBytes n (lowBytes n v)).length) :
    (leBytes n (lowBytes n v))[k] = v.extractLsb' (8 * k) 8 := by
  rw [getElem_leBytes, extractLsb'_lowBytes n k v (leBytes_length n _ ▸ hk) h8]

/-- The low byte of what a store stores is the register's, which the console gets (R220). -/
theorem setWidth_lowBytes (h1 : 1 ≤ n) (v : Word) : (lowBytes n v).setWidth 8 = v.setWidth 8 := by
  ext j hj
  have below : j < 8 * n := by omega
  simp [lowBytes, zext, below, show j < 64 by omega]

/-- The CLINT after the bytes of a store (R710, R713). -/
theorem State.setPhysBytes_lowBytes_clint (s : State) (h8 : n ≤ 8) (v : Word) {ps : List Word} (hl : ps.length = n) :
    (s.setPhysBytes ps (leBytes n (lowBytes n v))).clint = s.clintAfterStore ps v := by
  rw [State.setPhysBytes_clint v ps _ 0 s (by rw [leBytes_length, hl])]
  · simp only [Nat.zero_add]
    rfl
  · intro k hk
    rw [getElem_leBytes_lowBytes h8, Nat.zero_add]

/-- A store that passes its checks, with no store trigger set, stores its bytes and pushes its entry (R461, R802). -/
theorem stores_of_store (h1 : 1 ≤ n) (h8 : n ≤ 8) (h : exec i s = s.store len n rs1 rs2 off) :
    Stores i s len n (s.readX rs1 + off) (s.readX rs2) := by
  intro ps located q1 q2 canonical
  have length : ps.length = n := State.locate_length located
  rw [← State.locate_startInstr s len] at located
  rw [State.store, State.effAddr, State.storeBody_ok located q1 q2, State.addAfter_nil, State.finish_ok (by simp)] at h
  have wf : ((s.startInstr len).touch ps).mem.wf := by simpa using canonical
  refine ⟨_, h, rfl, by simp, fun b outside => ?other, fun distinct k hk plain => ?stored, ?clint,
    fun outside => ?clintSame, by simp, ?loadQueue, ?storeQueue, ?console, by simp, ?core⟩
  case other => simpa using State.setPhysBytes_read_other wf ps _ b outside
  case stored =>
    have inBytes : k < (leBytes n (lowBytes n (s.readX rs2))).length := by rw [leBytes_length]; omega
    rw [← getElem_leBytes_lowBytes h8 _ k inBytes]
    exact State.setPhysBytes_read_at wf ps _ distinct k hk inBytes (by simpa using plain)
  case clint => exact (State.setPhysBytes_lowBytes_clint _ h8 _ length).trans (by simp [State.clintAfterStore])
  case clintSame => exact (State.setPhysBytes_clint_same ps _ (by simpa using outside)).trans (by simp)
  case loadQueue => simp [State.commit, State.loadQueueAfter, invalidateLoads]
  case storeQueue => simp [State.commit, State.storeQueueAfter, State.queueAfterStore, pushBounded]
  case console => simp [State.commit, State.consoleAfter, setWidth_lowBytes h1]
  case core => constructor <;> simp

end

/-! ## The obligations -/

/-- Settles O19: each meaning is a load of its width and extension at its effective address. -/
theorem loadResults : Obligations.LoadResults := by
  intro s rd rs1 imm c1 c2 u7 u8 u9
  exact ⟨loads_of_load .sign rfl, loads_of_load .sign rfl, loads_of_load .sign rfl, loads_of_load .zero rfl,
    loads_of_load .zero rfl, loads_of_load .zero rfl, loads_of_load .zero rfl, loads_of_load .sign rfl,
    loads_of_load .zero rfl, loads_of_load .sign rfl, loads_of_load .zero rfl⟩

/-- Settles O20: each meaning is a store of its width, 1 to 8 bytes, at its effective address. -/
theorem storeResults : Obligations.StoreResults := by
  intro s rs1 rs2 imm c1 c2 u7 u8 u9
  refine ⟨?_, ?_, ?_, ?_, ?_, ?_, ?_, ?_⟩ <;> exact stores_of_store (by decide) (by decide) rfl

/-- Settles O21: each meaning is a load or a store of its width at its effective address. -/
theorem failedAccessesTakeTheirException : Obligations.FailedAccessesTakeTheirException := by
  intro s rd rs1 rs2 imm c1 c2 u7 u8 u9 e
  refine ⟨fun q => ⟨?compressedLoads, fun failed => ⟨?lb, ?lbu⟩, fun failed => ⟨?lh, ?lhu⟩,
    fun failed => ⟨?lw, ?lwu⟩, ?ld⟩, fun q1 q2 => ⟨?compressedStores, ?sb, ?sh, ?sw, ?sd⟩⟩
  case compressedLoads => refine ⟨?_, ?_, ?_, ?_⟩ <;> exact takesException_of_load rfl q
  case compressedStores => refine ⟨?_, ?_, ?_, ?_⟩ <;> exact takesException_of_store rfl q1 q2
  case ld => exact takesException_of_load rfl q
  case lb | lbu | lh | lhu | lw | lwu => exact takesException_of_load rfl q failed
  case sb | sh | sw | sd => exact takesException_of_store rfl q1 q2

/-- Settles O16: each commits with nothing written, but for a forbidden `wfi`, which raises before any effect. -/
theorem noOperationsOnlyMoveOn : Obligations.NoOperationsOnlyMoveOn := by
  intro s fm pred succ imm
  have wfi : exec .wfi s = .next ((s.startInstr 4).finish (s.startInstr 4).wfiBody) := rfl
  refine ⟨onlyMovesOn_of_commit rfl, onlyMovesOn_of_commit rfl, onlyMovesOn_of_commit rfl, fun allowed => ?_,
    fun forbidden => ?_⟩
  · rw [State.wfiBody_allowed (s := s.startInstr 4) allowed, State.finish_ok rfl] at wfi
    exact onlyMovesOn_of_commit wfi
  · rw [State.wfiBody_forbidden (s := s.startInstr 4) forbidden] at wfi
    exact takesException_of_raise wfi rfl rfl

end Sys2Proof.Machine
end

section
/-! The CSR instructions: a denied access is illegal; an allowed one moves the old value to `rd` and the new one through
the CSR's own store (45_csr_access R500 to R508). What that store leaves where the write mask is the whole rule, and in
`tdata2` (10_state R65, R137; 45_csr_access R510; 61_debug_triggers R757). -/

namespace Sys2Proof.Machine

/-! ## A CSR write inside an instruction -/

theorem SameCore.sameControl {s t : State} (h : SameCore s t) : SameControl s t := { h with }

/-- A store in a CSR neither reads nor changes the step context. -/
theorem State.csrStore_withCtx (s : State) (c : Ctx) (byHost : Bool) (r : Csr) (v : Word) :
    State.csrStore { s with ctx := c } byHost r v = { s.csrStore byHost r v with ctx := c } := by
  have locked (j : Nat) : State.pmpaddrLocked { s with ctx := c } j = s.pmpaddrLocked j := rfl
  have kept : State.slotProtected { s with ctx := c } byHost = s.slotProtected byHost := rfl
  cases r with
  | pmpaddr | tselect | tdata1 | tdata2 =>
    simp only [State.csrStore, State.writeTdata1, State.writeTdata2, locked, kept]
    split <;> rfl
  | _ => rfl

theorem State.csrStore_startInstr (s : State) (len : Nat) (byHost : Bool) (r : Csr) (v : Word) :
    (s.startInstr len).csrStore byHost r v = { s.csrStore byHost r v with ctx := (s.startInstr len).ctx } :=
  s.csrStore_withCtx _ byHost r v

/-- The load queue after a committed register write of an instruction that neither loads nor has written a register
before (R805). -/
theorem State.commit_writeX_queue_of {s u : State} (load : u.ctx.load = none) (wroteX : u.ctx.wroteX = none)
    (queue : u.loadQueue = s.loadQueue) (rd : Reg) (v : Word) : QueueAfterWrite s (u.writeX rd v).commit rd := by
  unfold QueueAfterWrite
  show State.loadQueueAfter _ = _
  simp only [State.loadQueueAfter, State.writeX_ctx_load, State.writeX_loadQueue, load, queue]
  by_cases h : rd = 0#5
  · simp [State.writeX, h, wroteX, invalidateLoads]
  · simp [State.writeX, h, toNat_ne_zero h, invalidateLoads]

/-! ## The operation the six instructions share -/

section
variable {i : Instr} {s : State} {op : CsrOp} {rd : Reg} {n : CsrNum} {m : Word} {w : Bool} {bits : Bits}

/-- A denied access raises before it reads or writes anything (R500). -/
theorem State.csrBody_denied (denied : csrDenied s n w) : s.csrBody op rd n m w bits = s.illegal bits := by
  rw [State.csrBody, State.csrAccess_eq_none.2 denied]

/-- An allowed access writes the CSR when the instruction writes, and then `rd` (R501). -/
theorem State.csrBody_allowed {r : Csr} (access : s.csrAccess n w = some r) : s.csrBody op rd n m w bits
    = .ok ((if w then s.csrWrite r (op.apply (s.csrRead r) m) else s).writeX rd (s.csrRead r)) := by
  rw [State.csrBody, access]

theorem takesException_of_csrInstr (h : exec i s = s.csrInstr op rd n m w bits) (denied : csrDenied s n w) :
    TakesException i s .illegal (s.cfg.illegalValue bits) := by
  rw [State.csrInstr, State.csrBody_denied (s := s.startInstr 4) denied] at h
  exact takesException_of_raise h rfl rfl

/-- An allowed access retires with the old value in `rd`; it goes through the CSR's store exactly when the instruction
writes (R501). -/
theorem csrDone_of_csrInstr (h : exec i s = s.csrInstr op rd n m w bits) (allowed : ¬ csrDenied s n w) :
    csrDone i s n rd fun old => if w then some (op.apply old m) else none := by
  obtain ⟨r, access, implemented⟩ := State.csrAccess_eq_some allowed
  rw [State.csrInstr, State.csrBody_allowed (s := s.startInstr 4) access, State.csrRead_startInstr] at h
  cases w with
  | false =>
    rw [if_neg Bool.false_ne_true, State.finish_ok (by simp)] at h
    obtain ⟨core, outside⟩ := s.retireX_same 4 rd (s.csrRead r)
    exact ⟨r, _, implemented, h, rfl, by simp, fun q => by simp [State.readX_writeX], s.commit_writeX_queue 4 rd _,
      ⟨core.csr, core.trig, core.mdseacLocked⟩, core.priv, core.counts, core.sameControl, outside⟩
  | true =>
    rw [if_pos rfl, State.finish_ok (by simp)] at h
    refine ⟨r, _, implemented, h, rfl, by simp, fun q => ?reg,
      State.commit_writeX_queue_of (by simp) (by simp) (by simp) rd _, ?csr, by simp, by simp, ?control, ?outside⟩
    case reg =>
      rw [State.readX_commit, State.readX_writeX, State.readX_congr (State.csrWrite_x ..), State.readX_startInstr]
    case csr => simp [State.csrStore_startInstr]
    case control => constructor <;> simp
    case outside => constructor <;> simp [State.commit, State.storeQueueAfter, State.consoleAfter]

end

/-! ## CSRs whose rule is their write mask -/

/-- The masks of 10_state are the model's write masks. -/
theorem writeMask_of_plainMask {s : State} {r : Csr} {mask : Word} (plain : plainMask s.cfg r = some mask) :
    s.writeMask r = mask := by
  cases r with
  | mepc | sepc => cases plain; exact s.cfg.epcMask_eq
  | mhpmevent | mhpmcounter => cases plain; simp [State.writeMask, maskIf, allOnes]
  | mscratch | sscratch | mcause | scause | mtval | stval | mcycle | minstret | mtvec | stvec | mie | mip | medeleg
  | mideleg | mcounteren | scounteren | mcountinhibit | meivt | mscause => cases plain; rfl
  | _ => cases plain

/-- Such a store changes only the CSR file. -/
theorem State.csrStore_eq_withCsr {s : State} {r : Csr} {v mask : Word} (plain : plainMask s.cfg r = some mask) :
    s.csrStore false r v = { s with csr := (s.csrStore false r v).csr } := by
  cases r with
  | pmpaddr | tselect | tdata1 | tdata2 | mdeau => cases plain
  | _ => rfl

/-- No CSR is its own view or shadow. -/
theorem Csr.not_mem_shownBy (r : Csr) : r ∉ shownBy r := by cases r <;> simp [shownBy]

/-- Every CSR after such a store, but for the views and shadows of the one written: that one merged under its mask, and
any other as before. -/
theorem State.csrRead_csrStore {s : State} {r q : Csr} {v mask : Word} (plain : plainMask s.cfg r = some mask)
    (hidden : q ∉ shownBy r) : (s.csrStore false r v).csrRead q
      = if q = r then merge (s.csrRead r) v (s.writeMask r) else s.csrRead q := by
  cases r with
  | mhpmevent i =>
    cases q with
    | mhpmevent j => simp [State.csrStore, State.csrRead, State.maskFor, Vector.getElem_set, Fin.ext_iff, eq_comm]
    | _ => rfl
  | mhpmcounter i =>
    cases q with
    | mhpmcounter j => simp [State.csrStore, State.csrRead, State.maskFor, Vector.getElem_set, Fin.ext_iff, eq_comm]
    | hpmcounter j =>
      have other : i.val ≠ j.val := by simpa [shownBy, Fin.ext_iff, eq_comm] using hidden
      exact Vector.getElem_set_ne i.isLt j.isLt other
    | _ => rfl
  | mie =>
    cases q with
    | sie => exact absurd (.head _) hidden
    | _ => rfl
  | mip =>
    cases q with
    | sip => exact absurd (.head _) hidden
    | _ => rfl
  | mideleg =>
    cases q with
    | sie => exact absurd (.head _) hidden
    | sip => exact absurd (.tail _ (.head _)) hidden
    | _ => rfl
  | mcycle =>
    cases q with
    | cycle => exact absurd (.head _) hidden
    | _ => rfl
  | minstret =>
    cases q with
    | instret => exact absurd (.head _) hidden
    | _ => rfl
  | meivt =>
    cases q with
    | meihap => exact absurd (.head _) hidden
    | _ => rfl
  | mscratch | sscratch | mcause | scause | mtval | stval | mepc | sepc | mtvec | stvec | medeleg | mcounteren
  | scounteren | mcountinhibit | mscause => cases q <;> rfl
  | _ => cases plain

/-! ## `tdata2` -/

theorem State.slotProtected_of_selected {s : State} {old : TrigSlot} (h : s.selectedSlot = some old) :
    s.slotProtected false = trigDmode old.tdata1 := by
  simp [State.slotProtected, h]

/-- A protected slot keeps its `tdata2` (R757). -/
theorem State.csrStore_tdata2_protected {s : State} {old : TrigSlot} (h : s.selectedSlot = some old)
    (locked : trigDmode old.tdata1 = true) (v : Word) : s.csrStore false .tdata2 v = s :=
  if_pos ((State.slotProtected_of_selected h).trans locked)

/-- A write of `tdata2` reaches the selected slot alone (R137). -/
theorem State.csrStore_tdata2 {s : State} {old : TrigSlot} (h : s.selectedSlot = some old)
    (free : trigDmode old.tdata1 = false) (v : Word) :
    s.csrStore false .tdata2 v = s.updateSlot s.csr.tselect.toNat fun t => { t with tdata2 := v } :=
  if_neg (Bool.not_eq_true _ ▸ (State.slotProtected_of_selected h).trans free)

theorem State.updateSlot_selected {s : State} {old : TrigSlot} (h : s.selectedSlot = some old)
    (f : TrigSlot → TrigSlot) : (s.updateSlot s.csr.tselect.toNat f).selectedSlot = some (f old) := by
  have slot : s.trig[s.csr.tselect.toNat]? = some old := h
  show (s.trig.modify s.csr.tselect.toNat f)[s.csr.tselect.toNat]? = _
  rw [List.getElem?_modify_eq, slot]
  rfl

/-! ## The obligations -/

/-- Settles O24: the six meanings are one operation, plain CSRs and `tdata2` have the store of their rule. -/
theorem csrInstructionResults : Obligations.CsrInstructionResults := by
  refine ⟨fun s rd rs1 uimm n => ?instructions, fun s r v mask plain => ?plain, fun s v old selected => ?tdata2⟩
  case instructions =>
    refine ⟨fun allowed => ⟨?csrrw, ?csrrwi⟩, fun allowed => ⟨?csrrs, ?csrrc⟩, fun allowed => ⟨?csrrsi, ?csrrci⟩⟩
    case csrrw | csrrwi => exact csrDone_of_csrInstr (op := .write) (w := true) rfl allowed
    case csrrs | csrrsi => exact csrDone_of_csrInstr (op := .set) rfl allowed
    case csrrc | csrrci => exact csrDone_of_csrInstr (op := .clear) rfl allowed
  case plain =>
    refine ⟨?written, fun q other hidden => ?frame, State.csrStore_eq_withCsr plain⟩
    case written =>
      rw [State.csrRead_csrStore plain r.not_mem_shownBy, if_pos rfl, writeMask_of_plainMask plain, merge]
    case frame => rw [State.csrRead_csrStore plain hidden, if_neg other]
  case tdata2 =>
    refine ⟨fun locked => State.csrStore_tdata2_protected selected locked v, fun free => ?_⟩
    rw [State.csrStore_tdata2 selected free]
    refine ⟨?read, fun k other => ?others, ?slot, rfl⟩
    case read => simp [State.csrRead, State.updateSlot_selected selected]
    case others => exact List.getElem?_modify_ne _ _ (Ne.symm other)
    case slot => exact State.updateSlot_selected selected _

/-- Settles O25: the six meanings are one operation, which asks for the access first. -/
theorem deniedCsrInstructionsAreIllegal : Obligations.DeniedCsrInstructionsAreIllegal := by
  intro s rd rs1 uimm n
  refine ⟨fun denied => ⟨?csrrw, ?csrrwi⟩, fun denied => ⟨?csrrs, ?csrrc⟩, fun denied => ⟨?csrrsi, ?csrrci⟩⟩
  all_goals exact takesException_of_csrInstr rfl denied

end Sys2Proof.Machine
end

section
/-! The environment calls, breakpoints, trap returns and flush requests: in which modes each is legal, the exception it
takes otherwise, and what it leaves when it retires (46_system R550 to R552, R555 to R557; 47_compressed R610;
60_exceptions R700). -/

namespace Sys2Proof.Machine

section
variable {i : Instr} {s : State} {len : Nat} {result : Handled}

/-! ## How a handler's result ends its instruction -/

/-- An instruction whose handler completes, with no trip noted, commits what the handler staged. -/
theorem exec_of_ok {t : State} (run : exec i s = .next ((s.startInstr len).finish result)) (body : result = .ok t)
    (noTrips : t.ctx.afterTrips = []) : exec i s = .next t.commit := by
  rw [run, body, State.finish_ok noTrips]

/-- An instruction that its own check finds illegal raises before it changes anything. -/
theorem takesException_of_illegal {bits : Bits} (run : exec i s = .next ((s.startInstr len).finish result))
    (body : result = (s.startInstr len).illegal bits) : TakesException i s .illegal (s.cfg.illegalValue bits) := by
  rw [body] at run
  exact takesException_of_raise run rfl rfl

/-! ## Breakpoint instructions -/

/-- The bit of `dcsr` that decides, mode by mode (R551, R782). -/
theorem State.ebreakDebug_eq_iff (b : Bool) : s.ebreakDebug = b ↔
    (s.priv = .m ∧ s.csr.dcsr.getLsbD 15 = b) ∨ (s.priv = .s ∧ s.csr.dcsr.getLsbD 13 = b)
      ∨ (s.priv = .u ∧ s.csr.dcsr.getLsbD 12 = b) := by
  unfold State.ebreakDebug
  cases s.priv <;> simp

/-- A breakpoint instruction that does not enter debug mode raises before it changes anything. -/
theorem takesException_of_ebreak (run : exec i s = .next ((s.startInstr len).finish (s.startInstr len).ebreakBody))
    (off : s.ebreakDebug = false) : TakesException i s .breakpoint s.pc := by
  have body : (s.startInstr len).ebreakBody = .raise .breakpoint s.pc (s.startInstr len) :=
    if_neg (Bool.not_eq_true _ ▸ off)
  rw [body] at run
  exact takesException_of_raise run rfl rfl

/-! ## Where a privileged instruction is legal -/

/-- M mode, or S mode with the trapping bit 0, is every mode but U, and S mode with the bit set. -/
theorem Priv.machine_or_supervisor_iff (p : Priv) (trap : Bool) :
    (p = .m ∨ (p = .s ∧ trap = false)) ↔ ¬ (p = .u ∨ (p = .s ∧ trap = true)) := by
  cases p <;> simp

theorem State.mretBody_machine (h : s.priv = .m) : s.mretBody = .ok s.returnM := if_pos h

theorem State.mretBody_below (h : s.priv ≠ .m) : s.mretBody = s.illegal Instr.mret.bits := if_neg h

theorem State.sretBody_allowed (h : s.priv = .m ∨ (s.priv = .s ∧ s.csr.mstatus.getLsbD 22 = false)) :
    s.sretBody = .ok s.returnS :=
  if_neg ((Priv.machine_or_supervisor_iff ..).1 h)

theorem State.sretBody_forbidden (h : ¬ (s.priv = .m ∨ (s.priv = .s ∧ s.csr.mstatus.getLsbD 22 = false))) :
    s.sretBody = s.illegal Instr.sret.bits :=
  if_pos (not_not.1 (mt (Priv.machine_or_supervisor_iff ..).2 h))

theorem State.sfenceBody_allowed (rs1 rs2 : Reg)
    (h : s.priv = .m ∨ (s.priv = .s ∧ s.csr.mstatus.getLsbD 20 = false)) :
    s.sfenceBody rs1 rs2 = .ok { s with flushes := s.flushOf rs1 rs2 :: s.flushes } :=
  if_neg ((Priv.machine_or_supervisor_iff ..).1 h)

theorem State.sfenceBody_forbidden (rs1 rs2 : Reg)
    (h : ¬ (s.priv = .m ∨ (s.priv = .s ∧ s.csr.mstatus.getLsbD 20 = false))) :
    s.sfenceBody rs1 rs2 = s.illegal (Instr.sfenceVma rs1 rs2).bits :=
  if_pos (not_not.1 (mt (Priv.machine_or_supervisor_iff ..).2 h))

end

/-! ## `mstatus` after a trap return -/

theorem Config.leastMode_code (c : Config) : c.leastMode.code = if c.extU then 0#2 else 3#2 := by
  unfold Config.leastMode
  split <;> rfl

/-- The bits of `mstatus` after `mret` (R552). -/
theorem getLsbD_statusMret (c : Config) (v : Word) (j : Nat) : (statusMret c v).getLsbD j
    = if j = 11 then c.leastMode.code.getLsbD 0 else if j = 12 then c.leastMode.code.getLsbD 1
      else if j = 7 then true else if j = 3 then v.getLsbD 7 else v.getLsbD j := by
  rw [statusMret, getLsbD_putMpp, getLsbD_putBit _ _ _ _ (by decide), getLsbD_putBit _ _ _ _ (by decide)]
  rfl

/-- The bits of `mstatus` after `sret` (R555). -/
theorem getLsbD_statusSret (v : Word) (j : Nat) : (statusSret v).getLsbD j
    = if j = 8 then false else if j = 5 then true else if j = 1 then v.getLsbD 5 else v.getLsbD j := by
  rw [statusSret, getLsbD_putBit _ _ _ _ (by decide), getLsbD_putBit _ _ _ _ (by decide),
    getLsbD_putBit _ _ _ _ (by decide)]
  rfl

/-- `mret` leaves every bit but MIE, MPIE and MPP. -/
theorem getLsbD_statusMret_other (c : Config) (v : Word) {j : Nat} (h : j ∉ [3, 7, 11, 12]) :
    (statusMret c v).getLsbD j = v.getLsbD j := by
  simp only [List.mem_cons, List.not_mem_nil, not_or] at h
  obtain ⟨h3, h7, h11, h12, -⟩ := h
  rw [getLsbD_statusMret, if_neg h11, if_neg h12, if_neg h7, if_neg h3]

/-- `sret` leaves every bit but SIE, SPIE and SPP. -/
theorem getLsbD_statusSret_other (v : Word) {j : Nat} (h : j ∉ [1, 5, 8]) :
    (statusSret v).getLsbD j = v.getLsbD j := by
  simp only [List.mem_cons, List.not_mem_nil, not_or] at h
  obtain ⟨h1, h5, h8, -⟩ := h
  rw [getLsbD_statusSret, if_neg h8, if_neg h5, if_neg h1]

/-! ## The obligations -/

/-- Settles O32: the return commits the status of its rule bit by bit, and a forbidden one raises first. -/
theorem trapReturnsRestoreTheSavedMode : Obligations.TrapReturnsRestoreTheSavedMode := by
  refine ⟨fun s => ⟨fun p machine mpp => ?mret, fun below => ?mretIllegal⟩,
    fun s => ⟨fun allowed => ?sret, fun forbidden => ?sretIllegal⟩⟩
  case mret =>
    have mode : modeOf (mppOf s.csr.mstatus) = p := by rw [mpp, modeOf_code]
    exact ⟨_, exec_of_ok rfl (State.mretBody_machine (s := s.startInstr 4) machine) rfl, rfl, rfl, mode,
      getLsbD_statusMret .., getLsbD_statusMret .., (mppOf_statusMret ..).trans s.cfg.leastMode_code,
      fun _ => getLsbD_statusMret_other _ _, rfl, rfl, rfl, rfl, rfl, rfl, ⟨rfl, rfl, rfl, rfl, rfl⟩⟩
  case mretIllegal =>
    exact takesException_of_illegal (bits := Instr.mret.bits) rfl (State.mretBody_below (s := s.startInstr 4) below)
  case sret =>
    exact ⟨_, exec_of_ok rfl (State.sretBody_allowed (s := s.startInstr 4) allowed) rfl, rfl, rfl, rfl,
      getLsbD_statusSret .., getLsbD_statusSret .., getLsbD_statusSret .., fun _ => getLsbD_statusSret_other _,
      rfl, rfl, rfl, rfl, rfl, rfl, ⟨rfl, rfl, rfl, rfl, rfl⟩⟩
  case sretIllegal =>
    exact takesException_of_illegal (bits := Instr.sret.bits) rfl
      (State.sretBody_forbidden (s := s.startInstr 4) forbidden)

/-- Settles O30: each raises before it changes anything, a breakpoint instruction where its mode's `dcsr` bit is 0. -/
theorem systemCallsAndBreakpointsTrap : Obligations.SystemCallsAndBreakpointsTrap := by
  intro s off
  refine ⟨?ecall, fun trap => ?breakpoints, ?dret⟩
  case ecall => exact takesException_of_raise (len := 4) rfl rfl rfl
  case breakpoints =>
    have debugOff : s.ebreakDebug = false := (State.ebreakDebug_eq_iff false).2 trap
    exact ⟨takesException_of_ebreak rfl debugOff, takesException_of_ebreak rfl debugOff⟩
  case dret => exact takesException_of_illegal (len := 4) (bits := Instr.dret.bits) rfl rfl

/-- Settles O33: the request is the one staged change, and a forbidden `sfence.vma` raises before it stages it. -/
theorem sfenceVmaOnlyRequestsAFlush : Obligations.SfenceVmaOnlyRequestsAFlush := by
  intro s rs1 rs2
  refine ⟨fun allowed => ?requested, fun forbidden => ?illegal⟩
  case requested =>
    refine ⟨_, exec_of_ok rfl (State.sfenceBody_allowed (s := s.startInstr 4) rs1 rs2 allowed) rfl, rfl, rfl, rfl,
      rfl, rfl, rfl, rfl, rfl, rfl, ?core⟩
    case core => constructor <;> rfl
  case illegal =>
    exact takesException_of_illegal (bits := (Instr.sfenceVma rs1 rs2).bits) rfl
      (State.sfenceBody_forbidden (s := s.startInstr 4) rs1 rs2 forbidden)

end Sys2Proof.Machine
end

section
/-! The compressed register instructions: the result each writes, and that it writes nothing else; and the words the spec
writes out, with the instructions they decode and expand to (30_encoding R290, R293; 47_compressed R581 to R614). -/

namespace Sys2Proof.Machine

/-! ## Immediates -/

/-- Narrowing an extended value gives the value extended to the narrower width. -/
theorem setWidth_signExtend_of_le {n m k : Nat} (v : BitVec n) (h : k ≤ m) :
    (v.signExtend m).setWidth k = v.signExtend k := by
  apply BitVec.eq_of_getLsbD_eq
  intro j hj
  have inner : j < m := by omega
  simp only [BitVec.getLsbD_setWidth, BitVec.getLsbD_signExtend, hj, inner, decide_true, Bool.true_and]

/-! ## The obligations -/

/-- Settles O15: each meaning is a register retirement of width 2, of the value its expansion computes; `c.addiw`
extends its immediate to 64 bits, of which the 32-bit sum takes the low half (R589). -/
theorem compressedArithmeticResults : Obligations.CompressedArithmeticResults := by
  refine ⟨⟨fun s rd u => ?addi4spn, fun s u => ?addi16sp, fun s rd m => ⟨?addi, ?addiw, ?li, ?lui, ?slli⟩,
      fun s rd m => ⟨?srli, ?srai, ?andi⟩⟩,
    fun s rd rs2 => ⟨?mv, ?add⟩, fun s rd rs2 => ⟨?sub, ?xor, ?or, ?and, ?subw, ?addw⟩⟩
  case addiw => rw [← setWidth_signExtend_of_le (m := 64) m (by decide)]; exact writesReg_of_retireX rfl
  all_goals exact writesReg_of_retireX rfl

/-- Settles O1: the decoder and the expansion, evaluated at each word. -/
theorem specWordsDecode : Obligations.SpecWordsDecode := by
  refine ⟨?addi, ?addiOfRegister, ?fence, ?ecall, ?mret, ?dret, ?cLw, ?cAddi16sp, ?cJ, ?cBnez, ?cSdsp, ?zeroWord,
    ?cLiExpands, ?cMvExpands, ?cJrExpands, ?cBnezExpands, ?cAddi16spExpands⟩
  all_goals decide

end Sys2Proof.Machine
end

section
/-! Taking a trap: its target mode, what entry into M mode and into S mode saves and where it goes, and the dispatch of a
fast interrupt (60_exceptions R690 to R699). -/

namespace Sys2Proof.Machine

/-! ## The target mode (R691) -/

theorem State.targetMode_eq_supervisor {s : State} {e : TrapEvent} :
    s.targetMode e = .s ↔ s.cfg.extS = true ∧ s.priv ≠ .m ∧ s.delegated e = true := by
  unfold State.targetMode
  split <;> simp [*]

theorem State.targetMode_eq_machine {s : State} {e : TrapEvent} :
    s.targetMode e = .m ↔ ¬ (s.cfg.extS = true ∧ s.priv ≠ .m ∧ s.delegated e = true) := by
  unfold State.targetMode
  split <;> simp [*]

/-- Every trap is taken to S or to M. -/
theorem State.targetMode_cases (s : State) (e : TrapEvent) : s.targetMode e = .s ∨ s.targetMode e = .m := by
  rw [State.targetMode_eq_supervisor, State.targetMode_eq_machine]
  exact em _

/-- A trap is never taken to a mode below the one it is taken in. -/
theorem State.priv_le_targetMode (s : State) (e : TrapEvent) : s.priv.code.toNat ≤ (s.targetMode e).code.toNat := by
  rcases s.targetMode_cases e with h | h
  · obtain ⟨-, below, -⟩ := State.targetMode_eq_supervisor.1 h
    rw [h]
    cases hp : s.priv with
    | u | s => decide
    | m => exact absurd hp below
  · rw [h]
    cases s.priv <;> decide

/-! ## Entry into M mode (R690, R694, R695) -/

/-- The bits of `mstatus` after a trap into M mode. -/
theorem getLsbD_statusToM (v : Word) (p : Priv) (j : Nat) : (statusToM v p).getLsbD j
    = if j = 11 then p.code.getLsbD 0 else if j = 12 then p.code.getLsbD 1
      else if j = 3 then false else if j = 7 then v.getLsbD 3 else v.getLsbD j := by
  rw [statusToM, getLsbD_putMpp, getLsbD_putBit _ _ _ _ (by decide), getLsbD_putBit _ _ _ _ (by decide)]
  rfl

theorem getLsbD_statusToM_other (v : Word) (p : Priv) {j : Nat} (h : j ∉ [3, 7, 11, 12]) :
    (statusToM v p).getLsbD j = v.getLsbD j := by
  simp only [List.mem_cons, List.not_mem_nil, not_or] at h
  obtain ⟨h3, h7, h11, h12, -⟩ := h
  rw [getLsbD_statusToM, if_neg h11, if_neg h12, if_neg h3, if_neg h7]

theorem vectorOf_interrupt (tvec : Word) (i : Irq) : vectorOf tvec (.interrupt i) = interruptTarget tvec i := by
  cases i <;> rfl

/-- A trap taken to M that does not go through the fast-interrupt table. -/
theorem State.takeTrap_toM {s : State} {e : TrapEvent} (machine : s.targetMode e = .m) (slow : s.usesFast e = false) :
    s.takeTrap e = (s.enterM e (vectorOf s.csr.mtvec e)).noteTrap e := by
  simp [State.takeTrap, machine, State.afterVector, State.vectorM, slow]

theorem entersMachine_of_slow {s : State} {e : TrapEvent} (machine : s.targetMode e = .m)
    (slow : s.usesFast e = false) :
    EntersMachine s e (e.epc s.pc) e.causeWord e.tval (vectorOf s.csr.mtvec e) := by
  unfold EntersMachine
  rw [State.takeTrap_toM machine slow]
  exact ⟨rfl, rfl, rfl, rfl, getLsbD_statusToM .., getLsbD_statusToM .., mppOf_statusToM ..,
    fun _ => getLsbD_statusToM_other _ _, rfl, rfl, rfl, rfl, rfl⟩

theorem State.usesFast_interrupt {s : State} {i : Irq} (h : s.cfg.fastIntEnabled = false ∨ i ≠ .mei) :
    s.usesFast (.interrupt i) = false := by
  rcases h with h | h <;> simp [State.usesFast, h]

theorem State.usesFast_exception (s : State) (c : Exc) (tv p : Word) :
    s.usesFast (.exception c tv p) = false := by simp [State.usesFast]

/-- Settles O35: the entry into M mode, for an exception and for an interrupt that is not fast. -/
theorem machineTrapEntry : Obligations.MachineTrapEntry := by
  refine ⟨fun s c tv p machine => ?exception, fun s i machine slow => ?interrupt⟩
  case exception => exact entersMachine_of_slow machine (s.usesFast_exception ..)
  case interrupt =>
    rw [← causeWord_interrupt, ← vectorOf_interrupt]
    exact entersMachine_of_slow machine (State.usesFast_interrupt slow)

/-! ## Entry into S mode (R690, R694, R696) -/

/-- The bits of `mstatus` after a trap into S mode. -/
theorem getLsbD_statusToS (v : Word) (p : Priv) (j : Nat) : (statusToS v p).getLsbD j
    = if j = 8 then p == .s else if j = 1 then false else if j = 5 then v.getLsbD 1 else v.getLsbD j := by
  rw [statusToS, getLsbD_putBit _ _ _ _ (by decide), getLsbD_putBit _ _ _ _ (by decide),
    getLsbD_putBit _ _ _ _ (by decide)]
  rfl

theorem getLsbD_statusToS_other (v : Word) (p : Priv) {j : Nat} (h : j ∉ [1, 5, 8]) :
    (statusToS v p).getLsbD j = v.getLsbD j := by
  simp only [List.mem_cons, List.not_mem_nil, not_or] at h
  obtain ⟨h1, h5, h8, -⟩ := h
  rw [getLsbD_statusToS, if_neg h8, if_neg h1, if_neg h5]

theorem State.takeTrap_toS {s : State} {e : TrapEvent} (supervisor : s.targetMode e = .s) :
    s.takeTrap e = (s.enterS e).noteTrap e := by simp [State.takeTrap, supervisor]

theorem entersSupervisor_of_target {s : State} {e : TrapEvent} (supervisor : s.targetMode e = .s) :
    EntersSupervisor s e (e.epc s.pc) e.causeWord e.tval (vectorOf s.csr.stvec e) := by
  unfold EntersSupervisor
  rw [State.takeTrap_toS supervisor]
  exact ⟨rfl, rfl, rfl, getLsbD_statusToS .., getLsbD_statusToS .., getLsbD_statusToS ..,
    fun _ => getLsbD_statusToS_other _ _, rfl, rfl, rfl, rfl, rfl⟩

/-- Settles O36: the entry into S mode, for an exception and for an interrupt. -/
theorem supervisorTrapEntry : Obligations.SupervisorTrapEntry := by
  refine ⟨fun s c tv p supervisor => ?exception, fun s i supervisor => ?interrupt⟩
  case exception => exact entersSupervisor_of_target supervisor
  case interrupt =>
    rw [← causeWord_interrupt, ← vectorOf_interrupt]
    exact entersSupervisor_of_target supervisor

/-- A trap sets the mode to its target. -/
theorem State.takeTrap_priv (s : State) (e : TrapEvent) : (s.takeTrap e).priv = s.targetMode e := by
  rcases s.targetMode_cases e with h | h <;> rw [h] <;> simp [State.takeTrap, h]

/-! ## The fast-interrupt table (R697) -/

/-- Settles O37: with fast dispatch the vector is the one read at `meihap`, and a failed read leaves an NMI pending. -/
theorem fastInterruptDispatch : Obligations.FastInterruptDispatch := by
  intro s enabled machine t a bytes ok
  have fast : s.usesFast (.interrupt .mei) = true := by simp [State.usesFast, enabled]
  have read : s.fastReadOk = ok := rfl
  have taken : t = ((s.afterVector (.interrupt .mei)).enterM (.interrupt .mei)
      (if ok then leValue (bytes.map s.physByte) &&& s.cfg.epcMask else s.csr.mtvec &&& ~~~3#64)).noteTrap
        (.interrupt .mei) := by
    show s.takeTrap _ = _
    rw [State.takeTrap, if_pos machine, State.vectorM, if_pos fast, read]
    rfl
  have after : s.afterVector (.interrupt .mei) = if ok then s.touch bytes
      else { s with nmiPending := true, nmiCause := s.cfg.nmiCauseFastInt } := by
    rw [State.afterVector, if_pos fast, read]
    rfl
  rw [taken, after]
  cases ok with
  | true => simp [TrapEvent.epc, causeWord_interrupt]; rfl
  | false => exact ⟨rfl, by simp, rfl, rfl, rfl, rfl, rfl, rfl⟩

end Sys2Proof.Machine
end

section
/-! Which interrupt is selected: the readiness of each and the fixed priority (60_exceptions R671 to R673, R680, R681). -/

namespace Sys2Proof.Machine

/-! ## The first of a list in order -/

/-- The place of an interrupt in the fixed priority order (R681). -/
def Irq.rank : Irq → Nat
  | .mei => 0
  | .msi => 1
  | .mti => 2
  | .sei => 3
  | .ssi => 4
  | .sti => 5

theorem Irq.mem_order (i : Irq) : i ∈ Irq.order := by cases i <;> decide

theorem Irq.order_pairwise : Irq.order.Pairwise fun i j => i.rank < j.rank := by decide

theorem Irq.find?_order_eq_none {p : Irq → Bool} : Irq.order.find? p = none ↔ ∀ i, p i = false := by
  rw [List.find?_eq_none]
  exact ⟨fun h i => Bool.not_eq_true _ ▸ h i i.mem_order, fun h i _ => by simp [h i]⟩

/-- What the scan finds has the property, and everything else that has it comes later. -/
theorem Irq.find?_order_eq_some {p : Irq → Bool} {i : Irq} (h : Irq.order.find? p = some i) :
    p i = true ∧ ∀ j, p j = true → j ≠ i → i.rank < j.rank := by
  obtain ⟨hp, before, after, order, none_before⟩ := List.find?_eq_some_iff_append.1 h
  refine ⟨hp, fun j hj ne => ?_⟩
  have sorted := order ▸ Irq.order_pairwise
  have mem : j ∈ before ++ i :: after := order ▸ j.mem_order
  rcases List.mem_append.1 mem with hb | hb
  · exact absurd hj (by simpa using none_before j hb)
  · rcases List.mem_cons.1 hb with rfl | ha
    · exact absurd rfl ne
    · exact List.rel_of_pairwise_cons (List.pairwise_append.1 sorted).2.1 ha

/-! ## Readiness -/

/-- The interrupt is pending and enabled by mask, goes to M, and M interrupts are globally enabled. -/
def State.readyToM (s : State) (i : Irq) : Bool :=
  s.mEnabled && (s.csr.mip &&& s.csr.mie &&& ~~~s.csr.mideleg).getLsbD i.code

/-- The interrupt is pending and enabled by mask, goes to S, and S interrupts are globally enabled. -/
def State.readyToS (s : State) (i : Irq) : Bool :=
  s.sEnabled && (s.csr.mip &&& s.csr.mie &&& s.csr.mideleg).getLsbD i.code

/-- A single step holds interrupts back. -/
def State.holdsInterrupts (s : State) : Bool := s.stepPending && !s.csr.dcsr.getLsbD 11

theorem Irq.code_lt (i : Irq) : i.code < 64 := by cases i <;> decide

theorem State.readyToM_iff {s : State} {i : Irq} : s.readyToM i = true ↔
    s.csr.mip.getLsbD i.code = true ∧ s.csr.mie.getLsbD i.code = true ∧ s.csr.mideleg.getLsbD i.code = false
      ∧ (s.priv ≠ .m ∨ s.csr.mstatus.getLsbD 3 = true) := by
  simp [State.readyToM, State.mEnabled, State.status, mstatusMIE, i.code_lt]
  tauto

theorem State.readyToS_iff {s : State} {i : Irq} : s.readyToS i = true ↔
    s.csr.mip.getLsbD i.code = true ∧ s.csr.mie.getLsbD i.code = true ∧ s.csr.mideleg.getLsbD i.code = true
      ∧ s.cfg.extS = true ∧ (s.priv = .u ∨ (s.priv = .s ∧ s.csr.mstatus.getLsbD 1 = true)) := by
  simp [State.readyToS, State.sEnabled, State.status, mstatusSIE]
  tauto

theorem State.selectInterrupt_held {s : State} (held : s.holdsInterrupts = true) : s.selectInterrupt = none :=
  if_pos held

/-- Where no single step holds interrupts back, the first ready one with target M, else the first with target S. -/
theorem State.selectInterrupt_free {s : State} (free : s.holdsInterrupts = false) :
    s.selectInterrupt = (Irq.order.find? s.readyToM).or (Irq.order.find? s.readyToS) := by
  have scan : s.selectInterrupt = match Irq.order.find? s.readyToM with
      | some i => some i
      | none => Irq.order.find? s.readyToS := if_neg (Bool.not_eq_true _ ▸ free)
  rw [scan]
  cases Irq.order.find? s.readyToM <;> rfl

/-- Nothing is selected exactly when a single step holds interrupts back or none is ready. -/
theorem State.selectInterrupt_eq_none {s : State} : s.selectInterrupt = none ↔
    s.holdsInterrupts = true ∨ ∀ i, s.readyToM i = false ∧ s.readyToS i = false := by
  cases free : s.holdsInterrupts with
  | true => simp [State.selectInterrupt_held free]
  | false =>
    rw [State.selectInterrupt_free free, Option.or_eq_none_iff, Irq.find?_order_eq_none, Irq.find?_order_eq_none]
    simp [forall_and]

theorem State.selectInterrupt_eq_some {s : State} {i : Irq} (h : s.selectInterrupt = some i) :
    s.holdsInterrupts = false ∧ (Irq.order.find? s.readyToM = some i
      ∨ ((∀ j, s.readyToM j = false) ∧ Irq.order.find? s.readyToS = some i)) := by
  cases free : s.holdsInterrupts with
  | true => rw [State.selectInterrupt_held free] at h; cases h
  | false =>
    rw [State.selectInterrupt_free free, Option.or_eq_some_iff, Irq.find?_order_eq_none] at h
    exact ⟨rfl, h⟩

theorem State.ready_of_selected {s : State} {i : Irq} (h : s.selectInterrupt = some i) :
    s.readyToM i = true ∨ s.readyToS i = true := by
  obtain ⟨-, hM | ⟨-, hS⟩⟩ := State.selectInterrupt_eq_some h
  · exact .inl (Irq.find?_order_eq_some hM).1
  · exact .inr (Irq.find?_order_eq_some hS).1

/-- A selected interrupt goes to S exactly when it is delegated. -/
theorem State.targetMode_of_selected {s : State} {i : Irq} (h : s.selectInterrupt = some i) :
    s.targetMode (.interrupt i) = if s.csr.mideleg.getLsbD i.code then .s else .m := by
  rcases State.ready_of_selected h with ready | ready
  · obtain ⟨-, -, notDelegated, -⟩ := State.readyToM_iff.1 ready
    rw [notDelegated, if_neg Bool.false_ne_true, State.targetMode_eq_machine]
    simp [State.delegated, notDelegated]
  · obtain ⟨-, -, delegated, supervisor, mode⟩ := State.readyToS_iff.1 ready
    rw [delegated, if_pos rfl, State.targetMode_eq_supervisor]
    refine ⟨supervisor, ?_, delegated⟩
    rcases mode with hp | ⟨hp, -⟩ <;> simp [hp]

/-! ## The obligations -/

/-- Settles O34: the target is decided by the delegation bit below M, and what is selected in M mode is not delegated. -/
theorem trapTargetModeRule : Obligations.TrapTargetModeRule := by
  intro s e t bit
  have delegation : s.delegated e = bit := by cases e <;> rfl
  refine ⟨by rw [← delegation]; exact State.targetMode_eq_supervisor, s.targetMode_cases e, s.priv_le_targetMode e,
    fun i selected machine => ?selected, fun reserved tv p call => ?ecall⟩
  case selected =>
    rcases State.ready_of_selected selected with ready | ready
    · exact (State.readyToM_iff.1 ready).2.2.1
    · obtain ⟨-, -, -, -, mode⟩ := State.readyToS_iff.1 ready
      simp [machine] at mode
  case ecall =>
    have never : s.csr.medeleg.getLsbD 11 = false :=
      reserved.medeleg.getLsbD (by cases s.cfg.extS <;> decide)
    subst call
    exact State.targetMode_eq_machine.2 fun ⟨_, _, bit⟩ => Bool.false_ne_true (never.symm.trans bit)

/-- Settles O40: the scan for M goes before the scan for S, and each answers the first ready one in order. -/
theorem selectedInterruptHasHighestPriority : Obligations.SelectedInterruptHasHighestPriority := by
  intro s deleg ready rank
  have ready_iff (i : Irq) :
      ready i ↔ s.holdsInterrupts = false ∧ (s.readyToM i = true ∨ s.readyToS i = true) := by
    have held : s.holdsInterrupts = false ↔ ¬ (s.stepPending = true ∧ s.csr.dcsr.getLsbD 11 = false) := by
      simp [State.holdsInterrupts]
    rw [State.readyToM_iff, State.readyToS_iff, held]
    simp only [ready, deleg]
    cases s.csr.mideleg.getLsbD i.code <;> simp <;> tauto
  have same_rank : rank = Irq.rank := by funext i; cases i <;> rfl
  refine ⟨?none, fun i selected => ⟨?ready, fun j readyJ ne => ?first⟩⟩
  case none =>
    rw [State.selectInterrupt_eq_none]
    simp only [ready_iff]
    cases s.holdsInterrupts <;> simp
  case ready => exact (ready_iff i).2 ⟨(State.selectInterrupt_eq_some selected).1, State.ready_of_selected selected⟩
  case first =>
    rw [same_rank]
    obtain ⟨-, readyJ⟩ := (ready_iff j).1 readyJ
    obtain ⟨-, found | ⟨noneToM, found⟩⟩ := State.selectInterrupt_eq_some selected
    · obtain ⟨readyI, first⟩ := Irq.find?_order_eq_some found
      obtain ⟨-, -, notDelegated, -⟩ := State.readyToM_iff.1 readyI
      rcases readyJ with toM | toS
      · obtain ⟨-, -, notDelegatedJ, -⟩ := State.readyToM_iff.1 toM
        exact .inr ⟨by simp [deleg, notDelegated, notDelegatedJ], first j toM ne⟩
      · obtain ⟨-, -, delegatedJ, -⟩ := State.readyToS_iff.1 toS
        exact .inl ⟨delegatedJ, by simp [deleg, notDelegated]⟩
    · obtain ⟨readyI, first⟩ := Irq.find?_order_eq_some found
      obtain ⟨-, -, delegated, -⟩ := State.readyToS_iff.1 readyI
      rcases readyJ with toM | toS
      · simp [noneToM j] at toM
      · obtain ⟨-, -, delegatedJ, -⟩ := State.readyToS_iff.1 toS
        exact .inr ⟨by simp [deleg, delegated, delegatedJ], first j toS ne⟩

end Sys2Proof.Machine
end

section
/-! The start of a step and its end: the sampled inputs, the branches before an instruction, the counters, and the single
step (40_step_protocol R302, R315; 60_exceptions R685, R688, R701, R712, R720, R721; 61_debug_triggers R780, R783, R784). -/

namespace Sys2Proof.Machine

/-! ## The start of a step -/

/-- A step begins by sampling `mip` and opening its context. -/
theorem State.beginStep_eq (s : State) :
    ∃ v k, s.beginStep = { s with csr := { s.csr with mip := v }, tick := k, ctx := {} } := by
  unfold State.beginStep State.sampleInputs
  split <;> exact ⟨_, _, rfl⟩

/-- A halt request comes first (R688). -/
theorem State.branchStep_halt {s : State} (halt : s.debugHaltPending = true) :
    s.branchStep = .next (s.enterDebug .haltReq s.pc) := if_pos halt

/-- An NMI comes before interrupts and the instruction (R688). -/
theorem State.branchStep_nmi {s : State} (halt : s.debugHaltPending = false) (nmi : s.nmiPending = true) :
    s.branchStep = .next s.takeNmi := by simp [State.branchStep, halt, nmi]

/-- A selected interrupt comes before the instruction (R688). -/
theorem State.branchStep_interrupt {s : State} {i : Irq} (halt : s.debugHaltPending = false)
    (nmi : s.nmiPending = false) (selected : s.selectInterrupt = some i) :
    s.branchStep = .next (s.takeTrap (.interrupt i)) := by simp [State.branchStep, halt, nmi, selected]

/-! ## The end of a step -/

theorem State.countCycle_eq (s : State) : ∃ m, s.countCycle = { s with csr := { s.csr with mcycle := m } } := by
  unfold State.countCycle
  split <;> exact ⟨_, rfl⟩

/-- The end of a single step changes what debug entry changes, if anything. -/
theorem State.endSingleStep_eq (s : State) : ∃ p d g h n c, s.endSingleStep
    = { s with csr := { s.csr with dpc := p, dcsr := d }, debugMode := g, debugHaltPending := h, stepPending := n,
               ctx := c } := by
  unfold State.endSingleStep
  split <;> exact ⟨_, _, _, _, _, _, rfl⟩

/-- The end of a step: the counters and count triggers, the end of a single step, and the count of instructions. -/
theorem State.endStep_eq (s : State) : ∃ n, s.endStep = { State.endSingleStep (if s.ctx.retired
    then s.countCycle.countInstret.countHpm.countTriggers else s.countCycle) with execCount := n } := by
  have count (u : State) : ∃ n, (if u.ctx.attempted then { u with execCount := u.execCount + 1 } else u)
      = { u with execCount := n } := by split <;> exact ⟨_, rfl⟩
  unfold State.endStep
  dsimp only
  rw [State.countCycle_context]
  exact count _

/-- The end of a step that attempted no instruction: only `mcycle`, debug entry by a single step, and the stop state can
move (R315, R320, R784). -/
theorem State.closeStep_no_instruction {s : State} (unretired : s.ctx.retired = false)
    (unattempted : s.ctx.attempted = false) : ∃ m p d g h n dn r, s.closeStep
      = { s with csr := { s.csr with mcycle := m, dpc := p, dcsr := d }, debugMode := g, debugHaltPending := h,
                 stepPending := n, done := dn, stopReason := r, ctx := {} } := by
  have context : s.countCycle.endSingleStep.ctx.attempted = s.ctx.attempted := by
    unfold State.endSingleStep
    split <;> simp [State.enterDebug]
  have ended : s.endStep = s.countCycle.endSingleStep := by
    simp [State.endStep, unretired, context, unattempted]
  obtain ⟨m, cycle⟩ := s.countCycle_eq
  obtain ⟨p, d, g, h, n, c, single⟩ := s.countCycle.endSingleStep_eq
  obtain ⟨dn, r, stop⟩ := s.endStep.stopCheck_eq
  exact ⟨m, p, d, g, h, n, dn, r, by rw [State.closeStep, stop, ended, single, cycle]⟩

/-! ## Steps that begin no instruction -/

/-- Settles O38: the branch of a pending NMI, ended without an instruction. -/
theorem pendingNmiIsTakenFirst : Obligations.PendingNmiIsTakenFirst := by
  intro s admitted running awake notStop noHalt nmi
  obtain ⟨v, k, begun⟩ := s.beginStep_eq
  have branch : s.beginStep.branchStep = .next s.beginStep.takeNmi :=
    State.branchStep_nmi (by rw [begun]; exact noHalt) (by rw [begun]; exact nmi)
  obtain ⟨m, p, d, g, h, n, dn, r, close⟩ := State.closeStep_no_instruction (s := s.beginStep.takeNmi)
    (by rw [begun]; rfl) (by rw [begun]; rfl)
  refine ⟨_, step_of_branch admitted running awake notStop branch, ?_⟩
  rw [close, begun]
  exact ⟨rfl, rfl, rfl, rfl, getLsbD_statusToM .., getLsbD_statusToM .., mppOf_statusToM ..,
    fun _ => getLsbD_statusToM_other _ _, rfl, rfl, rfl, rfl, rfl, rfl, rfl, rfl, rfl⟩

/-- Debug entry records its cause (R140, R780). -/
theorem cause_dcsrEntry (v : Word) (c : DebugCause) (p : Priv) : (dcsrEntry v c p).extractLsb' 6 3 = c.code := by
  apply BitVec.eq_of_getLsbD_eq
  intro j hj
  rw [BitVec.getLsbD_extractLsb', getLsbD_dcsrEntry]
  interval_cases j <;> cases c <;> rfl

/-- Settles O39: the branch of a pending halt request, ended in debug mode. -/
theorem haltRequestComesBeforeEverything : Obligations.HaltRequestComesBeforeEverything := by
  intro s admitted running awake notStop halt
  obtain ⟨v, k, begun⟩ := s.beginStep_eq
  have sampled : s.sampleInputs.csr.mip = s.beginStep.csr.mip := rfl
  have branch : s.beginStep.branchStep = .next (s.beginStep.enterDebug .haltReq s.beginStep.pc) :=
    State.branchStep_halt (by rw [begun]; exact halt)
  obtain ⟨m, n, d, r, close⟩ := State.closeStep_unretired
    (s := s.beginStep.enterDebug .haltReq s.beginStep.pc) (by rw [begun]; rfl) rfl
  refine ⟨_, step_of_branch admitted running awake notStop branch, ?_⟩
  rw [close, sampled, begun]
  exact ⟨rfl, rfl, rfl, rfl, cause_dcsrEntry .., prv_dcsrEntry .., rfl, rfl, rfl, rfl, rfl, rfl, rfl, rfl, rfl, rfl, rfl⟩

theorem State.takeTrap_attempted (s : State) (e : TrapEvent) :
    (s.takeTrap e).ctx.attempted = s.ctx.attempted := by
  unfold State.takeTrap
  split <;> simp [State.noteTrap]

/-- Settles O41: the branch of a selected interrupt takes it to the mode its delegation bit says. -/
theorem selectedInterruptIsTaken : Obligations.SelectedInterruptIsTaken := by
  intro s i admitted running awake notStop noHalt noNmi notFast selected
  obtain ⟨v, k, begun⟩ := s.beginStep_eq
  have target := State.targetMode_of_selected selected
  have slow : s.beginStep.usesFast (.interrupt i) = false :=
    State.usesFast_interrupt (.inl (by rw [begun]; exact notFast))
  have branch : s.beginStep.branchStep = .next (s.beginStep.takeTrap (.interrupt i)) :=
    State.branchStep_interrupt (by rw [begun]; exact noHalt) (by rw [begun]; exact noNmi) selected
  obtain ⟨m, p, d, g, h, n, dn, r, close⟩ := State.closeStep_no_instruction (s := s.beginStep.takeTrap (.interrupt i))
    (by rw [State.takeTrap_retired, begun]) (by rw [State.takeTrap_attempted, begun])
  refine ⟨_, step_of_branch admitted running awake notStop branch, ?_⟩
  rw [close, ← causeWord_interrupt]
  have same : s.beginStep.csr.mideleg = s.csr.mideleg := by rw [begun]
  rw [same] at target
  cases delegated : s.csr.mideleg.getLsbD i.code with
  | false =>
    rw [delegated, if_neg Bool.false_ne_true] at target
    rw [State.takeTrap_toM target slow, begun]
    exact ⟨rfl, rfl, rfl, rfl, rfl, rfl, fun _ => ⟨rfl, rfl⟩, nofun⟩
  | true =>
    rw [delegated, if_pos rfl] at target
    rw [State.takeTrap_toS target, begun]
    exact ⟨rfl, rfl, rfl, rfl, rfl, rfl, nofun, fun _ => ⟨rfl, rfl⟩⟩

/-! ## Halted and stopped harts -/

/-- Settles O43: `resume()` is the one way out of debug mode, and a step of a halted or stopped hart is no step. -/
theorem haltedHartWaitsForResume : Obligations.HaltedHartWaitsForResume := by
  refine ⟨fun s => ⟨fun awake => ?awake, fun p halted prv => ?resumes⟩, fun s => step_idle⟩
  case awake => simp [State.resume, awake]
  case resumes => simp [State.resume, halted, prv, modeOf_code]

/-! ## The counters -/

/-- The `mcycle` and `minstret` counters, and what decides whether they count, are the same. -/
structure SameCounters (s t : State) : Prop where
  mcycle : t.csr.mcycle = s.csr.mcycle
  minstret : t.csr.minstret = s.csr.minstret

theorem State.takeTrap_counters (s : State) (e : TrapEvent) : SameCounters s (s.takeTrap e) := by
  have kept := s.afterVector_csr e
  unfold State.takeTrap
  split
  · exact ⟨(congrArg CsrFile.mcycle kept :), (congrArg CsrFile.minstret kept :)⟩
  · exact ⟨rfl, rfl⟩

theorem State.triggerAction_counters (s : State) (t : Trip) (p : Word) : SameCounters s (s.triggerAction t p) := by
  unfold State.triggerAction
  split
  · exact ⟨rfl, rfl⟩
  · exact s.takeTrap_counters _

theorem State.countTriggers_counters (s : State) : SameCounters s s.countTriggers := by
  have action (ts : List TrigSlot) (t : Trip) (p : Word) :
      SameCounters s (State.triggerAction { s with trig := ts } t p) :=
    { State.triggerAction_counters { s with trig := ts } t p with }
  unfold State.countTriggers
  dsimp only
  split
  · exact action ..
  · exact ⟨rfl, rfl⟩

theorem State.countHpm_counters (s : State) : SameCounters s s.countHpm := by
  unfold State.countHpm
  split <;> exact ⟨rfl, rfl⟩

theorem SameCounters.trans {s t u : State} (h : SameCounters s t) (g : SameCounters t u) : SameCounters s u :=
  ⟨g.mcycle.trans h.mcycle, g.minstret.trans h.minstret⟩

/-- After the two counters, the end of a step changes neither. -/
theorem State.endStep_counters (s : State) : SameCounters
    (if s.ctx.retired then s.countCycle.countInstret else s.countCycle) s.endStep := by
  have single (u : State) : SameCounters u u.endSingleStep := by
    obtain ⟨p, d, g, h, n, c, single⟩ := u.endSingleStep_eq
    exact single ▸ ⟨rfl, rfl⟩
  obtain ⟨n, ended⟩ := s.endStep_eq
  rw [ended]
  refine .trans ?_ { single _ with }
  split
  · exact (State.countHpm_counters _).trans (State.countTriggers_counters _)
  · exact ⟨rfl, rfl⟩

theorem State.countCycle_mcycle (s : State) : s.countCycle.csr.mcycle
    = if s.csr.mcountinhibit.getLsbD 0 = true ∨ 0xB00#12 ∈ s.ctx.csrWritten then s.csr.mcycle
      else s.csr.mcycle + 1#64 := by
  unfold State.countCycle
  simp only [Bool.or_eq_true, List.contains_iff_mem]
  split <;> rfl

theorem State.countInstret_minstret (s : State) : s.countInstret.csr.minstret
    = if s.csr.mcountinhibit.getLsbD 2 = true ∨ 0xB02#12 ∈ s.ctx.csrWritten then s.csr.minstret
      else s.csr.minstret + 1#64 := by
  unfold State.countInstret
  simp only [Bool.or_eq_true, List.contains_iff_mem]
  split <;> rfl

theorem State.countInstret_mcycle (s : State) : s.countInstret.csr.mcycle = s.csr.mcycle := by
  unfold State.countInstret
  split <;> rfl

/-- Settles O8: the two counters move at the start of the end of a step, and nothing after them touches them. -/
theorem countersAdvanceAtTheEndOfAStep : Obligations.CountersAdvanceAtTheEndOfAStep := by
  intro s
  obtain ⟨mcycle, minstret⟩ := s.endStep_counters
  obtain ⟨m, cycle⟩ := s.countCycle_csr
  rw [mcycle, minstret, ← s.countCycle_mcycle]
  cases s.ctx.retired with
  | false => simp [cycle]
  | true => simp [State.countInstret_mcycle, State.countInstret_minstret, cycle]

end Sys2Proof.Machine
end

section
/-! What an instruction that completes can have done, for every row and every state, and with it which instructions change
the mode, what user mode can change, and how a single step ends (40_step_protocol R303, R308; 60_exceptions R691, R702,
R703; 61_debug_triggers R782, R784). -/

namespace Sys2Proof.Machine

/-! ## What a completed handler did -/

/-- What the handler of an instruction, begun in `s`, can have made of it when it completes: nothing but registers, memory
and the hit bits of after-timing trips; a CSR write that R500 allows; or a trap return. -/
inductive Completes (s : State) : Instr → State → Prop
  | plain {i : Instr} {t : State} (csr : t.csr = s.csr) (locked : t.mdseacLocked = s.mdseacLocked)
      (priv : t.priv = s.priv) (debug : t.debugMode = s.debugMode) (step : t.stepPending = s.stepPending)
      (slots : t.ctx.afterTrips = [] → t.trig = s.trig) : Completes s i t
  | csrWrite {i : Instr} {n : CsrNum} {r : Csr} (access : s.csrAccess n true = some r) (v : Word) (rd : Reg)
      (old : Word) : Completes s i ((s.csrWrite r v).writeX rd old)
  | mret (machine : s.priv = .m) : Completes s .mret s.returnM
  | sret (allowed : s.priv ≠ .u) : Completes s .sret s.returnS

theorem Completes.moves (s : State) (i : Instr) : Completes s i s := .plain rfl rfl rfl rfl rfl fun _ => rfl

theorem Completes.writes (s : State) (i : Instr) (rd : Reg) (v : Word) : Completes s i (s.writeX rd v) :=
  .plain (by simp) (by simp) (by simp) (by simp) (by simp) fun _ => by simp

/-- The handler's result, if it completes, is one of those. -/
def Handled.CompletesAs (s : State) (i : Instr) : Handled → Prop
  | .ok t => Completes s i t
  | .raise _ _ _ | .trip _ _ | .debug _ _ => True

section
variable (s : State) (i : Instr)

theorem completesAs_jumpBody (rd : Reg) (t : Word) : (s.jumpBody rd t).CompletesAs s i := by
  unfold State.jumpBody
  split
  · exact .plain (by simp) (by simp) (by simp) (by simp) (by simp) fun _ => by simp
  · trivial

theorem completesAs_branchBody (taken : Bool) (t : Word) : (s.branchBody taken t).CompletesAs s i := by
  unfold State.branchBody
  split
  · split
    · exact .plain rfl rfl rfl rfl rfl fun _ => rfl
    · trivial
  · exact .moves s i

theorem State.memRead_state {s t : State} {a v : Word} {n : Nat} (h : s.memRead a n = .ok (v, t)) :
    ∃ ps, t = s.touch ps := by
  unfold State.memRead at h
  split at h <;> cases h
  exact ⟨_, rfl⟩

theorem State.memWrite_state {s t : State} {a v : Word} {n : Nat} {w : Written} (h : s.memWrite a n v = .ok (w, t)) :
    ∃ ps bs, t = (s.touch ps).setPhysBytes ps bs := by
  unfold State.memWrite at h
  split at h <;> cases h
  exact ⟨_, _, rfl⟩

/-- The after-timing checks of a load leave the slots unless they note a trip. -/
theorem State.loadChecks_trig {s : State} {a v : Word} (h : (s.loadChecks a v).ctx.afterTrips = []) :
    (s.loadChecks a v).trig = s.trig := by
  obtain ⟨-, trips⟩ := List.append_eq_nil_iff.1 h
  obtain ⟨first, second⟩ := List.append_eq_nil_iff.1 trips
  rw [State.triggerEval_none first] at second
  simp [State.loadChecks, State.triggerEval_none first, State.triggerEval_none second]

/-- The checks of a store that trip nothing change nothing. -/
theorem State.storeChecks_none {s : State} {tm : Timing} {a v : Word} (h : (s.storeChecks tm a v).1 = []) :
    s.storeChecks tm a v = ([], s) := by
  obtain ⟨first, second⟩ := List.append_eq_nil_iff.1 h
  rw [State.triggerEval_none first] at second
  simp [State.storeChecks, State.triggerEval_none first, State.triggerEval_none second]

theorem completesAs_loadBody (n : Nat) (e : LoadExt) (rd : Reg) (a : Word) :
    (s.loadBody n e rd a).CompletesAs s i := by
  unfold State.loadBody
  dsimp only
  split
  · trivial
  · next before =>
    rw [State.triggerEval_none (arbitrate_eq_none.1 before)]
    split
    · trivial
    · next read =>
      obtain ⟨ps, rfl⟩ := State.memRead_state read
      refine .plain (by simp) (by simp) (by simp) (by simp) (by simp) fun noTrips => ?_
      rw [State.loadWrite_ctx_afterTrips] at noTrips
      rw [State.loadWrite_trig, State.loadChecks_trig noTrips, State.touch_trig]

theorem completesAs_storeBody (n : Nat) (a v : Word) : (s.storeBody n a v).CompletesAs s i := by
  unfold State.storeBody
  dsimp only
  split
  · trivial
  · next before =>
    rw [State.storeChecks_none (arbitrate_eq_none.1 before)]
    split
    · trivial
    · next written =>
      obtain ⟨ps, bs, rfl⟩ := State.memWrite_state written
      refine .plain (by simp) (by simp) (by simp) (by simp) (by simp) fun noTrips => ?_
      obtain ⟨-, trips⟩ := List.append_eq_nil_iff.1 noTrips
      simp [State.storeChecks_none trips]

theorem completesAs_csrBody (op : CsrOp) (rd : Reg) (n : CsrNum) (m : Word) (w : Bool) (bits : Bits) :
    (s.csrBody op rd n m w bits).CompletesAs s i := by
  unfold State.csrBody
  split
  · trivial
  · next access =>
    cases w with
    | false => exact .writes s i rd _
    | true => exact .csrWrite access _ rd _

theorem completesAs_ebreakBody : s.ebreakBody.CompletesAs s i := by
  unfold State.ebreakBody
  split <;> trivial

theorem completesAs_mretBody : s.mretBody.CompletesAs s .mret := by
  unfold State.mretBody
  split
  · next machine =>
    exact .mret machine
  · trivial

theorem completesAs_sretBody : s.sretBody.CompletesAs s .sret := by
  unfold State.sretBody
  split
  · trivial
  · next allowed =>
    exact .sret fun user => allowed (.inl user)

theorem completesAs_wfiBody : s.wfiBody.CompletesAs s i := by
  unfold State.wfiBody
  split
  · trivial
  · exact .moves s i

theorem completesAs_sfenceBody (rs1 rs2 : Reg) : (s.sfenceBody rs1 rs2).CompletesAs s i := by
  unfold State.sfenceBody
  split
  · trivial
  · exact .plain rfl rfl rfl rfl rfl fun _ => rfl

end

/-- The instruction finishes a handler's result that completes, if it does, in one of those ways. -/
def FinishesCompletion (i : Instr) (s : State) : Prop :=
  ∃ h, exec i s = .next ((s.startInstr i.len).finish h) ∧ h.CompletesAs (s.startInstr i.len) i

theorem FinishesCompletion.of_retireX {i : Instr} {s : State} {rd : Reg} {v : Word}
    (h : exec i s = .next (s.retireX i.len rd v)) : FinishesCompletion i s :=
  ⟨.ok ((s.startInstr i.len).writeX rd v), by rw [h, State.finish_ok (by simp), State.retireX],
    .writes ..⟩

theorem FinishesCompletion.of_retireNop {i : Instr} {s : State} (h : exec i s = .next (s.retireNop i.len)) :
    FinishesCompletion i s :=
  ⟨.ok (s.startInstr i.len), h, .moves ..⟩

theorem exec_finishesCompletion (i : Instr) (s : State) : FinishesCompletion i s := by
  cases i with
  | lui | auipc | addi | slti | sltiu | xori | ori | andi | slli | srli | srai | add | sub | sll | slt | sltu
  | xor | srl | sra | or | and | addiw | slliw | srliw | sraiw | addw | subw | sllw | srlw | sraw | mul | mulh
  | mulhsu | mulhu | div | divu | rem | remu | mulw | divw | divuw | remw | remuw | cAddi4spn | cAddi | cAddiw
  | cLi | cAddi16sp | cLui | cSrli | cSrai | cAndi | cSub | cXor | cOr | cAnd | cSubw | cAddw | cSlli | cMv
  | cAdd => exact .of_retireX rfl
  | fence | fenceI | cNop => exact .of_retireNop rfl
  | jal | cJ | jalr | cJr | cJalr => exact ⟨_, rfl, completesAs_jumpBody ..⟩
  | beq | bne | blt | bge | bltu | bgeu | cBeqz | cBnez => exact ⟨_, rfl, completesAs_branchBody ..⟩
  | lb | lh | lw | ld | lbu | lhu | lwu | cLw | cLd | cLwsp | cLdsp => exact ⟨_, rfl, completesAs_loadBody ..⟩
  | sb | sh | sw | sd | cSw | cSd | cSwsp | cSdsp => exact ⟨_, rfl, completesAs_storeBody ..⟩
  | csrrw | csrrs | csrrc | csrrwi | csrrsi | csrrci => exact ⟨_, rfl, completesAs_csrBody ..⟩
  | ecall | dret => exact ⟨_, rfl, trivial⟩
  | ebreak | cEbreak => exact ⟨_, rfl, completesAs_ebreakBody ..⟩
  | mret => exact ⟨_, rfl, completesAs_mretBody _⟩
  | sret => exact ⟨_, rfl, completesAs_sretBody _⟩
  | wfi => exact ⟨_, rfl, completesAs_wfiBody ..⟩
  | sfenceVma => exact ⟨_, rfl, completesAs_sfenceBody ..⟩

/-! ## How an instruction ends -/

/-- A trigger action takes an exception or enters debug mode (R772). -/
theorem State.triggerAction_cases (s : State) (t : Trip) (p : Word) :
    (∃ c tv, s.triggerAction t p = s.takeTrap (.exception c tv p))
      ∨ s.triggerAction t p = s.enterDebug .trigger p := by
  unfold State.triggerAction
  split
  · exact .inr rfl
  · exact .inl ⟨_, _, rfl⟩

/-- The end of an instruction: it retires what its handler completed, or, undone, takes an exception or enters debug mode
(R303 (e) to (g), R308). -/
theorem exec_cases {s t : State} {i : Instr} (h : exec i s = .next t) :
    (∃ u, Completes (s.startInstr i.len) i u ∧ u.ctx.afterTrips = [] ∧ t = u.commit)
      ∨ ∃ u, (∃ c tv p, t = ((s.startInstr i.len).undo u).takeTrap (.exception c tv p))
        ∨ ∃ c p, t = ((s.startInstr i.len).undo u).enterDebug c p := by
  obtain ⟨r, run, completes⟩ := exec_finishesCompletion i s
  obtain rfl : (s.startInstr i.len).finish r = t := Host.Outcome.next.inj (run.symm.trans h)
  have action (u : State) (tr : Trip) (p : Word) :
      (∃ c tv q, ((s.startInstr i.len).undo u).triggerAction tr p
        = ((s.startInstr i.len).undo u).takeTrap (.exception c tv q))
      ∨ ∃ c q, ((s.startInstr i.len).undo u).triggerAction tr p = ((s.startInstr i.len).undo u).enterDebug c q := by
    rcases ((s.startInstr i.len).undo u).triggerAction_cases tr p with ⟨c, tv, e⟩ | e
    · exact .inl ⟨c, tv, p, e⟩
    · exact .inr ⟨_, _, e⟩
  cases r with
  | ok u =>
    unfold State.finish
    dsimp only
    split
    · exact .inr ⟨u, action ..⟩
    · next none_tripped => exact .inl ⟨u, completes, arbitrate_eq_none.1 none_tripped, rfl⟩
  | raise e tv u => exact .inr ⟨u, .inl ⟨e, tv, _, rfl⟩⟩
  | trip tr u => exact .inr ⟨u, action ..⟩
  | debug c u => exact .inr ⟨u, .inr ⟨c, _, rfl⟩⟩

/-! ## The mode (R703) -/

/-- Settles O49: of what completes only the returns set the mode, and of what does not only the exception, upwards. -/
theorem privilegeChangesOnlyByReturnOrTrap : Obligations.PrivilegeChangesOnlyByReturnOrTrap := by
  intro s t i run changed
  obtain ⟨u, completed, -, rfl⟩ | ⟨u, ⟨c, tv, p, rfl⟩ | ⟨c, p, rfl⟩⟩ := exec_cases run
  · cases completed with
    | plain _ _ priv => exact absurd priv changed
    | csrWrite => simp at changed
    | mret => exact .inl ⟨rfl, .inl rfl⟩
    | sret => exact .inl ⟨rfl, .inr rfl⟩
  · refine .inr ⟨by simp, by simp [TrapEvent.taken], ?_⟩
    rw [State.takeTrap_priv]
    exact ((s.startInstr i.len).undo u).priv_le_targetMode _
  · exact absurd rfl changed

/-! ## User mode (R702) -/

/-- The level of a CSR is above user mode, or the CSR is read-only (R69, R500). -/
theorem Csr.level_or_readOnly (r : Csr) : 0 < (r.num.extractLsb' 8 2).toNat ∨ r.num.extractLsb' 10 2 = 3#2 := by
  cases r with
  | mhpmevent i | mhpmcounter i | hpmcounter i | pmpaddr i => revert i; decide
  | _ => decide

/-- No CSR can be written in user mode (R500). -/
theorem csrAccess_user {s : State} (user : s.priv = .u) (n : CsrNum) : s.csrAccess n true = none := by
  rw [State.csrAccess_eq_none]
  cases named : s.csrOf n with
  | none => exact .inl named
  | some r =>
    have number : r.num = n := by
      unfold State.csrOf at named
      split at named
      · next q hq => 
        obtain ⟨-, ⟨⟩⟩ := Option.ite_none_right_eq_some.1 named
        exact Csr.num_of_ofNum hq
      · cases named
    rcases number ▸ r.level_or_readOnly with level | readOnly
    · exact .inr (.inr (.inl (by rw [user]; exact level)))
    · exact .inr (.inr (.inr (.inl ⟨rfl, readOnly⟩)))

/-- Settles O50: in user mode what completes is plain, a CSR write and a return being denied there. -/
theorem userModeInstructionsChangeNoCsr : Obligations.UserModeInstructionsChangeNoCsr := by
  intro s t i user run retired
  obtain ⟨u, completed, noTrips, rfl⟩ | ⟨u, ⟨c, tv, p, rfl⟩ | ⟨c, p, rfl⟩⟩ := exec_cases run
  · cases completed with
    | plain csr locked priv _ _ slots => exact ⟨csr, slots noTrips, locked, priv.trans user⟩
    | csrWrite access => rw [State.csrAccess_startInstr, csrAccess_user user] at access; cases access
    | mret machine => rw [State.startInstr_priv, user] at machine; cases machine
    | sret allowed => exact absurd user allowed
  · simp at retired
  · cases retired

/-! ## Breakpoint instructions that halt (R782) -/

theorem State.finish_ebreak_debug {s : State} (len : Nat) (on : s.ebreakDebug = true) :
    (s.startInstr len).finish (s.startInstr len).ebreakBody
      = ((s.startInstr len).undo (s.startInstr len)).enterDebug .ebreak s.pc := by
  have body : (s.startInstr len).ebreakBody = .debug .ebreak (s.startInstr len) := if_pos on
  rw [body, State.finish_debug, State.startInstr_pc]

theorem getLsbD_dcsrEntry_other (v : Word) (c : DebugCause) (p : Priv) {j : Nat} (h : 9 ≤ j ∨ (2 ≤ j ∧ j < 6)) :
    (dcsrEntry v c p).getLsbD j = v.getLsbD j := by
  by_cases hj : j < 64
  · rw [getLsbD_dcsrEntry]
    rcases h with high | ⟨low, high⟩ <;> interval_cases j <;> rfl
  · rw [BitVec.getLsbD_of_ge _ j (by omega), BitVec.getLsbD_of_ge _ j (by omega)]

/-- Settles O31: the instruction is undone before the debug entry, which sets `dpc`, the cause and the mode. -/
theorem configuredBreakpointsEnterDebugMode : Obligations.ConfiguredBreakpointsEnterDebugMode := by
  intro s i breakpoint on
  have debug : s.ebreakDebug = true := (State.ebreakDebug_eq_iff true).2 on
  have run : ∃ len, exec i s = .next (((s.startInstr len).undo (s.startInstr len)).enterDebug .ebreak s.pc) := by
    rcases breakpoint with rfl | rfl
    · exact ⟨4, congrArg _ (State.finish_ebreak_debug 4 debug)⟩
    · exact ⟨2, congrArg _ (State.finish_ebreak_debug 2 debug)⟩
  obtain ⟨len, run⟩ := run
  exact ⟨_, run, rfl, rfl, cause_dcsrEntry .., prv_dcsrEntry .., fun _ => getLsbD_dcsrEntry_other _ _ _, rfl, rfl, rfl,
    rfl, rfl, rfl, rfl, rfl, rfl, rfl, rfl, rfl, ⟨rfl, rfl, rfl, rfl, rfl⟩, rfl⟩

/-! ## A single step (R784) -/

/-- A single step is pending exactly while the hart has not halted. -/
def State.StepUntilHalt (s : State) : Prop := s.stepPending = !s.debugMode

namespace State.StepUntilHalt

theorem enterDebug (s : State) (c : DebugCause) (p : Word) : (s.enterDebug c p).StepUntilHalt := rfl

/-- What leaves both flags keeps it. -/
theorem of_same {s t : State} (h : s.StepUntilHalt) (debug : t.debugMode = s.debugMode)
    (step : t.stepPending = s.stepPending) : t.StepUntilHalt := by
  rw [State.StepUntilHalt, debug, step]
  exact h

theorem takeTrap {s : State} (h : s.StepUntilHalt) (e : TrapEvent) : (s.takeTrap e).StepUntilHalt :=
  h.of_same (by simp) (by simp)

theorem triggerAction {s : State} (h : s.StepUntilHalt) (t : Trip) (p : Word) :
    (s.triggerAction t p).StepUntilHalt := by
  rcases s.triggerAction_cases t p with ⟨c, tv, e⟩ | e
  · exact e ▸ h.takeTrap _
  · exact e ▸ enterDebug ..

theorem exec {s t : State} {i : Instr} (h : s.StepUntilHalt) (run : exec i s = .next t) : t.StepUntilHalt := by
  obtain ⟨u, completed, -, rfl⟩ | ⟨u, ⟨c, tv, p, rfl⟩ | ⟨c, p, rfl⟩⟩ := exec_cases run
  · cases completed with
    | plain _ _ _ debug step => exact h.of_same debug step
    | csrWrite => exact h.of_same (by simp) (by simp)
    | mret | sret => exact h
  · exact StepUntilHalt.takeTrap (s := (s.startInstr i.len).undo u) h _
  · exact enterDebug ..

theorem decodeAndRun {s t : State} {bits : Bits} (h : s.StepUntilHalt) (run : s.decodeAndRun bits = .next t) :
    t.StepUntilHalt := by
  unfold State.decodeAndRun at run
  split at run
  · cases run; exact h.takeTrap _
  · exact h.exec run

theorem triggerEval {s : State} (h : s.StepUntilHalt) (k : TrigKind) (v : Word) (tm : Timing) (w : Word) :
    (s.triggerEval k v tm w).2.StepUntilHalt :=
  h.of_same (by simp) (by simp)

theorem runFetched {s t : State} {bits : Bits} (h : s.StepUntilHalt) (run : s.runFetched bits = .next t) :
    t.StepUntilHalt := by
  have evaluated (k : TrigKind) (v : Word) (w : Word) : State.StepUntilHalt (State.triggerEval
      { s with tick := s.tick + 1, ctx := { s.ctx with bits := bits } } k v .before w).2 :=
    triggerEval (s := { s with tick := s.tick + 1, ctx := { s.ctx with bits := bits } }) h ..
  unfold State.runFetched at run
  dsimp only at run
  split at run
  · cases run; exact (evaluated ..).triggerAction ..
  · exact (evaluated ..).decodeAndRun run

theorem executeOne {s t : State} (h : s.StepUntilHalt) (run : s.executeOne = .next t) : t.StepUntilHalt := by
  unfold State.executeOne at run
  dsimp only at run
  split at run
  · cases run; exact (h.triggerEval ..).triggerAction ..
  · split at run
    · cases run; exact (h.triggerEval ..).takeTrap _
    · exact (h.triggerEval ..).runFetched run

theorem branchStep {s t : State} (h : s.StepUntilHalt) (run : s.branchStep = .next t) : t.StepUntilHalt := by
  unfold State.branchStep at run
  split at run
  · cases run; exact enterDebug ..
  · split at run
    · cases run; exact h
    · split at run
      · cases run; exact h.takeTrap _
      · exact executeOne (s := { s with ctx := { s.ctx with attempted := true } }) h run

theorem countTriggers {s : State} (h : s.StepUntilHalt) : s.countTriggers.StepUntilHalt := by
  unfold State.countTriggers
  dsimp only
  split
  · exact triggerAction (s := { s with trig := (icountScan s.ctx 0 s.trig).2 }) h ..
  · exact h

theorem endSingleStep {s : State} (h : s.StepUntilHalt) :
    s.endSingleStep.debugMode = true ∧ s.endSingleStep.stepPending = false := by
  unfold State.endSingleStep
  split
  · exact ⟨rfl, rfl⟩
  · next noEntry =>
    rw [State.StepUntilHalt] at h
    simpa [h] using noEntry

/-- The end of a step halts the hart, if nothing in it did (R784). -/
theorem endStep {s : State} (h : s.StepUntilHalt) : s.endStep.debugMode = true ∧ s.endStep.stepPending = false := by
  have counted : s.countCycle.StepUntilHalt := h.of_same (by simp) (by simp)
  have hpm : s.countCycle.countInstret.countHpm.StepUntilHalt := counted.of_same (by simp) (by simp)
  obtain ⟨n, ended⟩ := s.endStep_eq
  rw [ended]
  refine endSingleStep ?_
  split
  · exact hpm.countTriggers
  · exact counted

end State.StepUntilHalt

/-- Settles O44: every branch of the step leaves the flags opposed, and the end of the step then halts the hart. -/
theorem singleStepEndsInDebugMode : Obligations.SingleStepEndsInDebugMode := by
  intro s t admitted running awake notStop stepping run
  obtain ⟨u, branch, -⟩ := s.beginStep.branchStep_completes
  obtain rfl : u.closeStep = t :=
    Host.Outcome.next.inj ((step_of_branch admitted running awake notStop branch).symm.trans run)
  obtain ⟨v, k, begun⟩ := s.beginStep_eq
  have opposed : s.beginStep.StepUntilHalt := by
    rw [begun]
    show s.stepPending = !s.debugMode
    rw [stepping, awake]
    rfl
  obtain ⟨d, r, close⟩ := u.endStep.stopCheck_eq
  rw [State.closeStep, close]
  exact (opposed.branchStep branch).endStep

end Sys2Proof.Machine
end

section
/-! The CLINT: the inputs it drives, and what the bytes of a store leave in its registers (60_exceptions R710 to R714). -/

namespace Sys2Proof.Machine

/-! ## Sampling (R712) -/

theorem State.sampleInputs_off {s : State} (off : s.cfg.clintEnabled = false) : s.sampleInputs = s :=
  if_neg (Bool.not_eq_true _ ▸ off)

theorem State.sampleInputs_on {s : State} {b : Bool} {c : Word} (on : s.cfg.clintEnabled = true)
    (msip : s.clint.msip[s.cfg.hartId.toNat]? = some b) (mtimecmp : s.clint.mtimecmp[s.cfg.hartId.toNat]? = some c) :
    s.sampleInputs = { s with csr := { s.csr with
      mip := putBit (putBit s.csr.mip 3 b) 7 (decide (c.toNat ≤ s.clint.mtime.toNat)) } } := by
  simp [State.sampleInputs, on, msip, mtimecmp]

/-! ## The bytes of a word -/

/-- The bits of a word with one byte replaced. -/
theorem getLsbD_putByte (w : Word) (k : Nat) (b : Byte) (i : Nat) :
    (putByte w k b).getLsbD i = if 8 * k ≤ i ∧ i < 8 * k + 8 ∧ i < 64 then b.getLsbD (i - 8 * k) else w.getLsbD i := by
  by_cases hi : i < 64
  · have mask : (0xFF#64).getLsbD (i - 8 * k) = decide (i - 8 * k < 8) := by
      have : i - 8 * k < 64 := by omega
      generalize i - 8 * k = j at this
      interval_cases j <;> rfl
    simp only [putByte, zext, BitVec.getLsbD_or, BitVec.getLsbD_and, BitVec.getLsbD_not, BitVec.getLsbD_shiftLeft,
      BitVec.getLsbD_setWidth, hi, mask, decide_true, Bool.true_and, and_true]
    by_cases low : i < 8 * k
    · simp [low, show ¬ 8 * k ≤ i by omega]
    · by_cases high : i < 8 * k + 8
      · simp [low, high, show 8 * k ≤ i by omega, show i - 8 * k < 8 by omega, show i - 8 * k < 64 by omega]
      · simp [low, high, show ¬ i - 8 * k < 8 by omega, BitVec.getLsbD_of_ge b (i - 8 * k) (by omega)]
  · rw [BitVec.getLsbD_of_ge _ i (by omega), BitVec.getLsbD_of_ge w i (by omega), if_neg (by omega)]

/-- A word after the low `n` bytes of `v` are stored in it from byte `j` on. -/
def putBytes (v : Word) (j n : Nat) (w : Word) : Word :=
  (List.range n).foldl (fun w k => putByte w (j + k) (v.extractLsb' (8 * k) 8)) w

theorem putBytes_succ (v : Word) (j n : Nat) (w : Word) :
    putBytes v j (n + 1) w = putByte (putBytes v j n w) (j + n) (v.extractLsb' (8 * n) 8) := by
  simp [putBytes, List.range_succ, List.foldl_append]

theorem getLsbD_putBytes (v : Word) (j n : Nat) (w : Word) (i : Nat) : (putBytes v j n w).getLsbD i
    = if 8 * j ≤ i ∧ i < 8 * (j + n) ∧ i < 64 then v.getLsbD (i - 8 * j) else w.getLsbD i := by
  induction n with
  | zero => rw [if_neg (by omega)]; rfl
  | succ n ih =>
    rw [putBytes_succ, getLsbD_putByte, ih]
    by_cases last : 8 * (j + n) ≤ i ∧ i < 8 * (j + n) + 8 ∧ i < 64
    · rw [if_pos last, if_pos (by omega), BitVec.getLsbD_extractLsb', decide_eq_true (by omega), Bool.true_and]
      congr 1
      omega
    · rw [if_neg last]
      have same : (8 * j ≤ i ∧ i < 8 * (j + n) ∧ i < 64) ↔ 8 * j ≤ i ∧ i < 8 * (j + (n + 1)) ∧ i < 64 := by omega
      simp only [same]

/-- All eight bytes make the word. -/
theorem putBytes_word (v w : Word) : putBytes v 0 8 w = v := by
  apply BitVec.eq_of_getLsbD_eq
  intro i hi
  rw [getLsbD_putBytes, if_pos (by omega), Nat.mul_zero, Nat.sub_zero]

/-- Four bytes from byte 0 make the low half. -/
theorem putBytes_low (v w : Word) : putBytes v 0 4 w = w.extractLsb' 32 32 ++ v.extractLsb' 0 32 := by
  apply BitVec.eq_of_getLsbD_eq
  intro i hi
  rw [getLsbD_putBytes, BitVec.getLsbD_append, BitVec.getLsbD_extractLsb', BitVec.getLsbD_extractLsb']
  by_cases low : i < 32
  · simp [low]
    omega
  · simp [low, show i - 32 < 32 by omega, show 32 + (i - 32) = i by omega]

/-- Four bytes from byte 4 make the high half. -/
theorem putBytes_high (v w : Word) : putBytes v 4 4 w = v.extractLsb' 0 32 ++ w.extractLsb' 0 32 := by
  apply BitVec.eq_of_getLsbD_eq
  intro i hi
  rw [getLsbD_putBytes, BitVec.getLsbD_append, BitVec.getLsbD_extractLsb', BitVec.getLsbD_extractLsb']
  by_cases low : i < 32
  · simp [low]
  · simp [low, hi, show 32 ≤ i by omega, show i - 32 < 32 by omega]

/-! ## Stores to a register (R710, R713) -/

/-- The CLINT after the bytes of a store of `n` bytes at an offset. -/
def Clint.putBytes (c : Clint) (v : Word) (off n : Nat) : Clint :=
  (List.range n).foldl (fun d k => d.writeByte (off + k) (v.extractLsb' (8 * k) 8)) c

theorem Clint.putBytes_succ (c : Clint) (v : Word) (off n : Nat) : c.putBytes v off (n + 1)
    = (c.putBytes v off n).writeByte (off + n) (v.extractLsb' (8 * n) 8) := by
  simp [Clint.putBytes, List.range_succ, List.foldl_append]

/-- The first byte of an `msip` register decides it. -/
theorem Clint.writeByte_msip (c : Clint) {h k : Nat} (hh : h < 4095) (hk : k < 4) (b : Byte) :
    c.writeByte (4 * h + k) b = if k = 0 then { c with msip := c.msip.set h (b.getLsbD 0) } else c := by
  rw [Clint.writeByte, if_pos (by omega), show (4 * h + k) % 4 = k by omega, show (4 * h + k) / 4 = h by omega]

theorem Clint.putBytes_msip (c : Clint) {h : Nat} (hh : h < 4095) (v : Word) :
    c.putBytes v (4 * h) 4 = { c with msip := c.msip.set h (v.getLsbD 0) } := by
  show (((c.writeByte (4 * h + 0) _).writeByte (4 * h + 1) _).writeByte (4 * h + 2) _).writeByte (4 * h + 3) _ = _
  simp only [Clint.writeByte_msip _ hh, Nat.reduceLT, Nat.reduceEqDiff, if_true, if_false]
  simp

/-- A byte of an `mtimecmp` register goes into its word. -/
theorem Clint.writeByte_mtimecmp (c : Clint) {h k : Nat} (hh : h < 4095) (hk : k < 8) (b : Byte) :
    c.writeByte (0x4000 + 8 * h + k) b = { c with mtimecmp := c.mtimecmp.modify h fun w => putByte w k b } := by
  rw [Clint.writeByte, if_neg (by omega), if_pos (by omega), show (0x4000 + 8 * h + k - 0x4000) / 8 = h by omega,
    show (0x4000 + 8 * h + k) % 8 = k by omega]

theorem Clint.putBytes_mtimecmp (c : Clint) {h j n : Nat} (hh : h < 4095) (hn : j + n ≤ 8) (v : Word) :
    c.putBytes v (0x4000 + 8 * h + j) n
      = { c with mtimecmp := c.mtimecmp.modify h fun w => Machine.putBytes v j n w } := by
  induction n with
  | zero => exact congrArg (fun l => { c with mtimecmp := l }) (List.modify_id _ _).symm
  | succ n ih =>
    rw [Clint.putBytes_succ, ih (by omega), Nat.add_assoc, Clint.writeByte_mtimecmp _ hh (by omega)]
    simp [List.modify_modify_eq, Machine.putBytes_succ, Function.comp_def]

/-- A store to `mtime` changes nothing (R711). -/
theorem Clint.putBytes_mtime (c : Clint) {off : Nat} (ho : 0xBFF8 ≤ off) (v : Word) (n : Nat) :
    c.putBytes v off n = c := by
  induction n with
  | zero => rfl
  | succ n ih => rw [Clint.putBytes_succ, ih, Clint.writeByte, if_neg (by omega), if_neg (by omega)]

/-- Settles O42: the sampled bits are MSIP and MTIP alone, and the bytes of a store reach one register alone. -/
theorem clintRegistersDriveInterruptInputs : Obligations.ClintRegistersDriveInterruptInputs := by
  refine ⟨fun s => ⟨State.sampleInputs_off, fun on b c msip mtimecmp => ?sampled⟩, fun c h v hm ht hh => ?stored⟩
  case sampled =>
    rw [State.sampleInputs_on on msip mtimecmp]
    refine ⟨?_, ?_, fun j h3 h7 => ?_, rfl⟩
    all_goals dsimp only; rw [getLsbD_putBit _ _ _ _ (by decide), getLsbD_putBit _ _ _ _ (by decide)]
    · rfl
    · rfl
    · rw [if_neg h7, if_neg h3]
  case stored =>
    have word : c.mtimecmp.modify h (fun _ => v) = c.mtimecmp.set h v := by
      rw [List.modify_eq_set_getElem?]
      simp [ht]
    refine ⟨c.putBytes_msip hh v, ?word, ?low, ?high, c.putBytes_mtime (le_refl _) v 8, c.putBytes_mtime (le_refl _) v 4,
      c.putBytes_mtime (by decide) v 4⟩
    case word =>
      exact (c.putBytes_mtimecmp (j := 0) (n := 8) hh (by decide) v).trans (by simp only [putBytes_word, word])
    case low => exact (c.putBytes_mtimecmp (j := 0) (n := 4) hh (by decide) v).trans (by simp only [putBytes_low])
    case high => exact (c.putBytes_mtimecmp (j := 4) (n := 4) hh (by decide) v).trans (by simp only [putBytes_high])

end Sys2Proof.Machine
end

section
/-! Trigger slots: what an instruction leaves in `tdata1`, how a slot compares, when a chain trips, and the instruction
counts (61_debug_triggers R752 to R773). -/

namespace Sys2Proof.Machine

/-! ## What an instruction writes in `tdata1` (R752 to R758) -/

/-- A bit placed at a position. -/
theorem getLsbD_bitIf (c : Bool) {i : Nat} (hi : i < 64) (j : Nat) : (bitIf c i).getLsbD j = (c && decide (j = i)) := by
  cases c with
  | false => simp [bitIf]
  | true =>
    have one : (1#64).getLsbD (j - i) = decide (j - i = 0) := by simp
    rw [bitIf, if_pos rfl, BitVec.getLsbD_shiftLeft, one, Bool.eq_iff_iff]
    simp
    omega

/-- The action an instruction leaves is the breakpoint, whatever it writes (R754). -/
theorem legalAction_instruction (v cur : Nat) : legalAction v cur false = 0 := by simp [legalAction]

/-- The match field an instruction leaves in an `mcontrol` slot (R754). -/
def legalMatch (cur v : Word) : BitVec 4 :=
  if (v.extractLsb' 7 4).toNat ≤ 5 then v.extractLsb' 7 4
  else if trigType cur = 2#4 then cur.extractLsb' 7 4 else 0#4

/-- The bits an instruction leaves in an `mcontrol` slot. -/
theorem getLsbD_legaliseMcontrol (c : Config) (slot : Nat) (cur v : Word) {j : Nat} (hj : j < 64) :
    (legaliseMcontrol c slot cur v false).getLsbD j
      = if j = 11 then chainRule c slot (v.getLsbD 11)
        else if 7 ≤ j ∧ j < 11 then (legalMatch cur v).getLsbD (j - 7)
        else if j = 4 then c.extS && v.getLsbD 4
        else if j = 3 then c.extU && v.getLsbD 3
        else (0x27E0000000000000#64).getLsbD j || (v.getLsbD j && (0x1C0047#64).getLsbD j) := by
  have field : (if (v.extractLsb' 7 4).toNat ≤ 5 then v.extractLsb' 7 4
      else if trigType cur == 2#4 then cur.extractLsb' 7 4 else 0#4) = legalMatch cur v := by simp [legalMatch]
  simp only [legaliseMcontrol, legalAction_instruction, field, BitVec.getLsbD_or, BitVec.getLsbD_and,
    getLsbD_bitIf _ (show 59 < 64 by decide), getLsbD_bitIf _ (show 11 < 64 by decide),
    getLsbD_bitIf _ (show 4 < 64 by decide), getLsbD_bitIf _ (show 3 < 64 by decide), zext]
  generalize legalMatch cur v = m
  interval_cases j <;> simp

/-- A field of a word, bit by bit. -/
theorem extractLsb'_eq_of_bits {w : Word} {start n : Nat} {x : BitVec n}
    (h : ∀ j < n, w.getLsbD (start + j) = x.getLsbD j) : w.extractLsb' start n = x := by
  apply BitVec.eq_of_getLsbD_eq
  intro j hj
  rw [BitVec.getLsbD_extractLsb', decide_eq_true hj, Bool.true_and, h j hj]

theorem legaliseMcontrol_fields (c : Config) (slot : Nat) (cur v : Word) :
    let new := legaliseMcontrol c slot cur v false
    trigType new = 2#4 ∧ trigDmode new = false ∧ new.extractLsb' 53 6 = 63#6 ∧ new.extractLsb' 21 32 = 0#32
      ∧ new.extractLsb' 18 3 = v.extractLsb' 18 3 ∧ new.extractLsb' 12 6 = 0#6
      ∧ new.getLsbD 11 = (v.getLsbD 11 && decide (slot + 1 ≠ c.numTriggers)
          && !(c.triggerEvenOdd && decide (slot % 2 = 1)))
      ∧ new.extractLsb' 7 4 = legalMatch cur v
      ∧ new.getLsbD 6 = v.getLsbD 6 ∧ new.getLsbD 5 = false
      ∧ new.getLsbD 4 = (c.extS && v.getLsbD 4) ∧ new.getLsbD 3 = (c.extU && v.getLsbD 3)
      ∧ new.extractLsb' 0 3 = v.extractLsb' 0 3 := by
  intro new
  have bit {j : Nat} (hj : j < 64) := getLsbD_legaliseMcontrol c slot cur v hj
  refine ⟨?type, ?dmode, ?fixedHigh, ?fixedLow, ?control, ?action, ?chain, ?comparison, ?m, ?reserved,
    bit (by decide), bit (by decide), ?access⟩
  case chain => exact (bit (by decide)).trans (by simp [chainRule])
  case dmode | m | reserved => exact (bit (by decide)).trans (by simp)
  all_goals
    refine extractLsb'_eq_of_bits fun j hj => (bit (by omega)).trans ?_
    interval_cases j <;> simp

/-- The bits an instruction leaves in an `icount` slot. -/
theorem getLsbD_legaliseIcount (c : Config) (cur v : Word) {j : Nat} (hj : j < 64) :
    (legaliseIcount c cur v false).getLsbD j
      = if j = 7 then c.extS && v.getLsbD 7
        else if j = 6 then c.extU && v.getLsbD 6
        else (0x3000000000000000#64).getLsbD j || (v.getLsbD j && (0x1FFFE00#64).getLsbD j) := by
  simp only [legaliseIcount, legalAction_instruction, BitVec.getLsbD_or, BitVec.getLsbD_and,
    getLsbD_bitIf _ (show 59 < 64 by decide), getLsbD_bitIf _ (show 7 < 64 by decide),
    getLsbD_bitIf _ (show 6 < 64 by decide)]
  interval_cases j <;> simp

theorem legaliseIcount_fields (c : Config) (cur v : Word) :
    let new := legaliseIcount c cur v false
    trigType new = 3#4 ∧ trigDmode new = false ∧ new.extractLsb' 25 34 = 0#34
      ∧ new.extractLsb' 9 16 = v.extractLsb' 9 16 ∧ new.getLsbD 8 = false
      ∧ new.getLsbD 7 = (c.extS && v.getLsbD 7) ∧ new.getLsbD 6 = (c.extU && v.getLsbD 6)
      ∧ new.extractLsb' 0 6 = 0#6 := by
  intro new
  have bit {j : Nat} (hj : j < 64) := getLsbD_legaliseIcount c cur v hj
  refine ⟨?type, ?dmode, ?fixed, ?count, ?reserved, bit (by decide), bit (by decide), ?action⟩
  case dmode | reserved => exact (bit (by decide)).trans (by simp)
  all_goals
    refine extractLsb'_eq_of_bits fun j hj => (bit (by omega)).trans ?_
    interval_cases j <;> simp

theorem State.csrStore_tdata1_protected {s : State} {old : TrigSlot} (h : s.selectedSlot = some old)
    (locked : trigDmode old.tdata1 = true) (v : Word) : s.csrStore false .tdata1 v = s :=
  if_pos ((State.slotProtected_of_selected h).trans locked)

/-- A write of `tdata1` reaches the selected slot alone (R754). -/
theorem State.csrStore_tdata1 {s : State} {old : TrigSlot} (h : s.selectedSlot = some old)
    (free : trigDmode old.tdata1 = false) (v : Word) :
    s.csrStore false .tdata1 v = s.updateSlot s.csr.tselect.toNat fun t =>
      { t with tdata1 := legaliseTdata1 s.cfg s.csr.tselect.toNat t.tdata1 v false } :=
  if_neg (Bool.not_eq_true _ ▸ (State.slotProtected_of_selected h).trans free)

/-- Settles O29: a protected slot is not written, and any other holds the legalised value of its type, field by field. -/
theorem instructionsCannotArmDebugTriggers : Obligations.InstructionsCannotArmDebugTriggers := by
  intro s v old selected after slot
  cases free : trigDmode old.tdata1 with
  | true =>
    have kept : after = s := State.csrStore_tdata1_protected selected free v
    rw [kept]
    exact ⟨rfl, fun _ _ => rfl, old, selected, rfl, fun _ => rfl, nofun⟩
  | false =>
    have written := State.csrStore_tdata1 selected free v
    have new := State.updateSlot_selected selected fun t =>
      { t with tdata1 := legaliseTdata1 s.cfg s.csr.tselect.toNat t.tdata1 v false }
    rw [← written] at new
    refine ⟨?frame, fun k other => ?others, _, new, rfl, nofun, fun _ => ⟨fun type => ?mcontrol, fun type => ?icount,
      fun type => ?disabled, fun n0 n2 n3 => ?unsupported⟩⟩
    case frame => simp only [after, written]; rfl
    case others => simp only [after, written]; exact List.getElem?_modify_ne _ _ (Ne.symm other)
    case mcontrol =>
      have value : legaliseTdata1 s.cfg slot old.tdata1 v false = legaliseMcontrol s.cfg slot old.tdata1 v false := by
        simp [legaliseTdata1, type]
      dsimp only
      rw [value]
      exact legaliseMcontrol_fields s.cfg slot old.tdata1 v
    case icount =>
      have value : legaliseTdata1 s.cfg slot old.tdata1 v false = legaliseIcount s.cfg old.tdata1 v false := by
        simp [legaliseTdata1, type]
      dsimp only
      rw [value]
      exact legaliseIcount_fields s.cfg old.tdata1 v
    case disabled => simp [legaliseTdata1, type]
    case unsupported => simp [legaliseTdata1, n0, n2, n3]

end Sys2Proof.Machine
end

section
/-! How a trigger slot compares and when it fires, which chains trip, and the instruction counts (61_debug_triggers R760 to
R764, R770, R773). -/

namespace Sys2Proof.Machine

/-! ## Comparing (R761) -/

/-- Adding one flips the bits up to the least significant 0. -/
theorem getLsbD_xor_succ (t : Word) {j : Nat} (hj : j < 64) :
    (t ^^^ (t + 1#64)).getLsbD j = decide (∀ i < j, t.getLsbD i = true) := by
  have succ : t + 1#64 = -(~~~t) := by rw [BitVec.neg_eq_not_add, BitVec.not_not]
  rw [succ, BitVec.getLsbD_xor, BitVec.getLsbD_neg]
  have low : (∃ i < j, (~~~t).getLsbD i = true) ↔ ¬ ∀ i < j, t.getLsbD i = true := by
    push Not
    refine exists_congr fun i => and_congr_right fun hi => ?_
    simp [show i < 64 by omega]
  rw [BitVec.getLsbD_not]
  by_cases ones : ∀ i < j, t.getLsbD i = true
  · rw [decide_eq_false (mt low.1 (not_not.2 ones)), decide_eq_true ones]
    cases t.getLsbD j <;> simp [hj]
  · rw [decide_eq_true (low.2 ones), decide_eq_false ones]
    cases t.getLsbD j <;> simp [hj]

/-- The NAPOT comparison looks at the bits above the least significant 0 of `t`. -/
theorem napotMatches_iff {t v : Word} : napotMatches t v = true ↔
    ∀ j < 64, (∃ i < j, t.getLsbD i = false) → v.getLsbD j = t.getLsbD j := by
  rw [napotMatches, beq_iff_eq, BitVec.eq_of_getLsbD_eq_iff]
  refine forall_congr' fun j => forall_congr' fun hj => ?_
  rw [BitVec.getLsbD_and, BitVec.getLsbD_xor, BitVec.getLsbD_not, getLsbD_xor_succ t hj, BitVec.getLsbD_zero]
  by_cases ones : ∀ i < j, t.getLsbD i = true
  · have noZero : ¬ ∃ i < j, t.getLsbD i = false := fun ⟨i, hi, low⟩ => by simp [ones i hi] at low
    simp [decide_eq_true ones, noZero]
  · have someZero : ∃ i < j, t.getLsbD i = false := by push Not at ones; simpa using ones
    simp [decide_eq_false ones, hj, someZero]

theorem napotMatches_of_zero {t v : Word} {k : Nat} (ones : ∀ j < k, t.getLsbD j = true)
    (zero : t.getLsbD k = false) :
    napotMatches t v = true ↔ ∀ j, k < j → j < 64 → v.getLsbD j = t.getLsbD j := by
  rw [napotMatches_iff]
  refine ⟨fun h j hk hj => h j hj ⟨k, hk, zero⟩, fun h j hj ⟨i, hi, low⟩ => h j ?_ hj⟩
  by_contra above
  rw [ones i (by omega)] at low
  cases low

/-- Settles O45: each match type is its comparison, a NAPOT one by the bits above the least significant 0. -/
theorem triggerMatchRule : Obligations.TriggerMatchRule := by
  intro t v
  refine ⟨beq_iff_eq, fun k _ ones zero => napotMatches_of_zero ones zero, fun ones => ?everything, ?notBelow,
    BitVec.ult_iff_toNat_lt, beq_iff_eq, beq_iff_eq⟩
  case everything =>
    refine napotMatches_iff.2 fun j hj ⟨i, hi, zero⟩ => ?_
    rw [ones, BitVec.getLsbD_allOnes, decide_eq_true (show i < 64 by omega)] at zero
    cases zero
  case notBelow =>
    show (!v.ult t) = true ↔ _
    rw [Bool.not_eq_true', ← Bool.not_eq_true, BitVec.ult_iff_toNat_lt, Nat.not_lt]

/-! ## Chains (R760, R762 to R764) -/

/-- When a slot fires, condition by condition. -/
theorem TrigSlot.fires_iff (t : TrigSlot) (k : TrigKind) (v : Word) (tm : Timing) (p : Priv) (mie : Bool) :
    t.fires k v tm p mie = true ↔ trigType t.tdata1 = 2#4 ∧ k.selected t.tdata1 = true
      ∧ (tm = .after ↔ t.tdata1.getLsbD 18 = true) ∧ mcontrolMode t.tdata1 p = true
      ∧ ¬ (t.tdata1.extractLsb' 12 4 ≠ 1#4 ∧ p = .m ∧ mie = false)
      ∧ matchValue (t.tdata1.extractLsb' 7 4) t.tdata2 v = true := by
  have timing : Timing.ofBit (t.tdata1.getLsbD 18) = tm ↔ (tm = .after ↔ t.tdata1.getLsbD 18 = true) := by
    cases t.tdata1.getLsbD 18 <;> cases tm <;> decide
  have suppression : suppressed (mcontrolDebug t.tdata1) p mie = false
      ↔ ¬ (t.tdata1.extractLsb' 12 4 ≠ 1#4 ∧ p = .m ∧ mie = false) := by
    simp [suppressed, mcontrolDebug]
  rw [← timing, ← suppression]
  simp [TrigSlot.fires, and_assoc]

/-- Every slot of a list in a range is chained. -/
def ChainedOn (l : List TrigSlot) (i j : Nat) : Prop :=
  ∀ m, i ≤ m → m < j → ∃ r, l[m]? = some r ∧ r.chained = true

/-- Slot `j` ends a chain of which every slot fires, where `all` tells whether the chained slots before the list do. -/
def ChainFires (fires : TrigSlot → Bool) (all : Bool) (l : List TrigSlot) (j : Nat) : Prop :=
  ∃ t, l[j]? = some t ∧ t.chained = false ∧ fires t = true
    ∧ (∀ i u, i < j → l[i]? = some u → ChainedOn l i j → fires u = true)
    ∧ (ChainedOn l 0 j → all = true)

theorem chainedOn_cons {t : TrigSlot} {l : List TrigSlot} {i j : Nat} :
    ChainedOn (t :: l) (i + 1) (j + 1) ↔ ChainedOn l i j := by
  refine ⟨fun h m hi hj => by simpa using h (m + 1) (by omega) (by omega), fun h m hi hj => ?_⟩
  obtain ⟨m, rfl⟩ := Nat.exists_eq_add_one.2 (show 0 < m by omega)
  simpa using h m (by omega) (by omega)

theorem chainedOn_cons_zero {t : TrigSlot} {l : List TrigSlot} {j : Nat} :
    ChainedOn (t :: l) 0 (j + 1) ↔ t.chained = true ∧ ChainedOn l 0 j := by
  refine ⟨fun h => ⟨by simpa using h 0 (by omega) (by omega), chainedOn_cons.1 fun m hi hj => h m (by omega) hj⟩, ?_⟩
  rintro ⟨first, rest⟩ m - hj
  cases m with
  | zero => exact ⟨t, rfl, first⟩
  | succ m => exact chainedOn_cons.2 rest (m + 1) (by omega) hj

theorem chainFires_zero {fires : TrigSlot → Bool} {all : Bool} {t : TrigSlot} {l : List TrigSlot} :
    ChainFires fires all (t :: l) 0 ↔ t.chained = false ∧ fires t = true ∧ all = true := by
  have empty : ChainedOn (t :: l) 0 0 := fun m _ hm => absurd hm (by omega)
  simp [ChainFires, empty]

/-- The first slot of a list goes with the chain before the rest of it, where it is chained. -/
theorem chainFires_succ {fires : TrigSlot → Bool} {all : Bool} {t : TrigSlot} {l : List TrigSlot} {j : Nat} :
    ChainFires fires all (t :: l) (j + 1) ↔ ChainFires fires (if t.chained then all && fires t else true) l j := by
  refine exists_congr fun last => and_congr Iff.rfl (and_congr Iff.rfl (and_congr Iff.rfl ?_))
  constructor
  · rintro ⟨member, before⟩
    refine ⟨fun i u hi hu run => member (i + 1) u (by omega) hu (chainedOn_cons.2 run), fun run => ?_⟩
    split
    · rename_i first
      have whole := chainedOn_cons_zero.2 ⟨first, run⟩
      rw [before whole, member 0 t (by omega) rfl whole, Bool.and_self]
    · rfl
  · rintro ⟨member, before⟩
    have start (whole : ChainedOn (t :: l) 0 (j + 1)) : all = true ∧ fires t = true := by
      obtain ⟨first, run⟩ := chainedOn_cons_zero.1 whole
      simpa [first] using before run
    refine ⟨fun i u hi hu run => ?_, fun whole => (start whole).1⟩
    cases i with
    | zero =>
      obtain rfl : t = u := by simpa using hu
      exact (start run).2
    | succ i => exact member i u (by omega) hu (chainedOn_cons.1 run)

/-- A slot that trips is one of the list, and the trip has its action and the trap value of the evaluation. -/
theorem trip_of_mem_chainScan {fires : TrigSlot → Bool} {w : Word} {l : List TrigSlot} {i : Nat} {ms : List Nat}
    {all : Bool} {c : ChainTrip} (h : c ∈ chainScan fires w i ms all l) :
    ∃ j t, c.trip = { slot := i + j, debug := mcontrolDebug t.tdata1, tval := w } ∧ l[j]? = some t := by
  induction l generalizing i ms all with
  | nil => cases h
  | cons t rest ih =>
    have later {ms : List Nat} {all : Bool} (h : c ∈ chainScan fires w (i + 1) ms all rest) :
        ∃ j u, c.trip = { slot := i + j, debug := mcontrolDebug u.tdata1, tval := w } ∧ (t :: rest)[j]? = some u := by
      obtain ⟨j, u, trip, slot⟩ := ih h
      exact ⟨j + 1, u, by rw [trip, Nat.add_right_comm, Nat.add_assoc], slot⟩
    rw [chainScan] at h
    split at h
    · exact later h
    · split at h
      · rcases List.mem_cons.1 h with rfl | h
        · exact ⟨0, t, rfl, rfl⟩
        · exact later h
      · exact later h

theorem le_slot_of_mem_chainScan {fires : TrigSlot → Bool} {w : Word} {l : List TrigSlot} {i : Nat} {ms : List Nat}
    {all : Bool} {c : ChainTrip} (h : c ∈ chainScan fires w i ms all l) : i ≤ c.trip.slot := by
  obtain ⟨j, t, trip, -⟩ := trip_of_mem_chainScan h
  rw [trip]
  exact Nat.le_add_right i j

/-- The scan trips at the slots that end a chain of which every slot fires. -/
theorem mem_chainScan_iff (fires : TrigSlot → Bool) (w : Word) (l : List TrigSlot) (i : Nat) (ms : List Nat) (all : Bool)
    (j : Nat) : (∃ c ∈ chainScan fires w i ms all l, c.trip.slot = i + j) ↔ ChainFires fires all l j := by
  induction l generalizing i ms all j with
  | nil => simp [chainScan, ChainFires]
  | cons t rest ih =>
    have head (ms : List Nat) (all : Bool) : ¬ ∃ c ∈ chainScan fires w (i + 1) ms all rest, c.trip.slot = i + 0 := by
      rintro ⟨c, mem, slot⟩
      have := le_slot_of_mem_chainScan mem
      omega
    have tail (ms : List Nat) (all : Bool) (j : Nat) :
        (∃ c ∈ chainScan fires w (i + 1) ms all rest, c.trip.slot = i + (j + 1)) ↔ ChainFires fires all rest j := by
      rw [← ih (i + 1) ms all j, Nat.add_right_comm, Nat.add_assoc]
    rw [chainScan]
    cases j with
    | zero =>
      rw [chainFires_zero]
      split <;> rename_i chained
      · simpa [chained] using head (i :: ms) (all && fires t)
      · split <;> rename_i fired
        · exact iff_of_true ⟨_, List.mem_cons_self, rfl⟩ (by simpa [chained, and_comm] using fired)
        · simp only [head, false_iff]
          simpa [chained, and_comm] using fired
    | succ j =>
      rw [chainFires_succ]
      split <;> rename_i chained
      · exact tail _ _ j
      · split
        · rw [← tail [] true j]
          simp
        · exact tail [] true j

/-- The trips of an evaluation are those of the scan of the slots. -/
theorem State.triggerEval_trips (s : State) (k : TrigKind) (v : Word) (tm : Timing) (w : Word) :
    (s.triggerEval k v tm w).1
      = (chainScan (fun t => t.fires k v tm s.priv (s.status mstatusMIE)) w 0 [] true s.trig).map ChainTrip.trip := by
  unfold State.triggerEval
  dsimp only
  split
  · rename_i nothing
    rw [nothing]
    rfl
  · rfl

theorem TrigKind.selected_iff (k : TrigKind) (t : Word) : k.selected t = true ↔
    match k with
    | .execAddr => t.getLsbD 2 = true ∧ t.getLsbD 19 = false
    | .execOpcode => t.getLsbD 2 = true ∧ t.getLsbD 19 = true
    | .loadAddr => t.getLsbD 0 = true ∧ t.getLsbD 19 = false
    | .loadData => t.getLsbD 0 = true ∧ t.getLsbD 19 = true
    | .storeAddr => t.getLsbD 1 = true ∧ t.getLsbD 19 = false
    | .storeData => t.getLsbD 1 = true ∧ t.getLsbD 19 = true := by
  cases k <;> simp [TrigKind.selected]

theorem mcontrolMode_iff (t : Word) (p : Priv) : mcontrolMode t p = true ↔
    match p with
    | .m => t.getLsbD 6 = true
    | .s => t.getLsbD 4 = true
    | .u => t.getLsbD 3 = true := by
  cases p <;> rfl

/-- Settles O46: the scan trips at the ends of the chains that fire whole, and each slot fires by its own bits. -/
theorem chainsTripWhenEverySlotFires : Obligations.ChainsTripWhenEverySlotFires := by
  intro s k v tm w fires
  have one (t : TrigSlot) : t.fires k v tm s.priv (s.status mstatusMIE) = true ↔ fires t := by
    rw [TrigSlot.fires_iff, TrigKind.selected_iff, mcontrolMode_iff]
    rfl
  rw [State.triggerEval_trips]
  refine ⟨fun j => ?_, fun tr mem => ?_⟩
  · have scan := mem_chainScan_iff (fun t => t.fires k v tm s.priv (s.status mstatusMIE)) w s.trig 0 [] true j
    simp only [Nat.zero_add] at scan
    simp only [List.mem_map, exists_exists_and_eq_and, scan, ChainFires, one, implies_true, and_true]
    rfl
  · obtain ⟨c, scanned, rfl⟩ := List.mem_map.1 mem
    obtain ⟨j, t, trip, slot⟩ := trip_of_mem_chainScan scanned
    rw [trip, Nat.zero_add]
    exact ⟨rfl, t, slot, beq_iff_eq⟩

/-! ## Instruction counts (R770, R773) -/

theorem icount_ne_zero {w : Word} : (icountOf w).toNat ≠ 0 ↔ w.toNat / 1024 % 16384 ≠ 0 := by
  rw [icountOf, BitVec.extractLsb'_toNat, Nat.shiftRight_eq_div_pow]

/-- One off the count of a word whose count is not 0 is 1024 off the word. -/
theorem toNat_sub_count {w : Word} (h : (icountOf w).toNat ≠ 0) :
    (w - (1#64 <<< 10)).toNat = w.toNat - 1024 ∧ 1024 ≤ w.toNat := by
  rw [icount_ne_zero] at h
  have := w.isLt
  have : (1#64 <<< 10 : Word).toNat = 1024 := by decide
  refine ⟨?_, by omega⟩
  rw [BitVec.toNat_sub, this]
  omega

theorem icountOf_sub_count {w : Word} (h : (icountOf w).toNat ≠ 0) :
    (icountOf (w - (1#64 <<< 10))).toNat + 1 = (icountOf w).toNat := by
  obtain ⟨down, enough⟩ := toNat_sub_count h
  rw [icount_ne_zero] at h
  simp only [icountOf, BitVec.extractLsb'_toNat, Nat.shiftRight_eq_div_pow, down]
  omega

/-- Counting down changes only the bits of the count. -/
theorem getLsbD_sub_count {w : Word} (h : (icountOf w).toNat ≠ 0) {k : Nat} (hk : k < 10 ∨ 24 ≤ k) :
    (w - (1#64 <<< 10)).getLsbD k = w.getLsbD k := by
  obtain ⟨down, enough⟩ := toNat_sub_count h
  rw [icount_ne_zero] at h
  rw [← BitVec.testBit_toNat, ← BitVec.testBit_toNat, down]
  rcases hk with low | high
  · have same : (w.toNat - 1024) % 2 ^ 10 = w.toNat % 2 ^ 10 := by omega
    have bits (n : Nat) : n.testBit k = (n % 2 ^ 10).testBit k := by
      rw [Nat.testBit_mod_two_pow, decide_eq_true low, Bool.true_and]
    rw [bits, same, ← bits]
  · obtain ⟨i, rfl⟩ := Nat.exists_eq_add_of_le high
    have same : (w.toNat - 1024) / 2 ^ 24 = w.toNat / 2 ^ 24 := by omega
    rw [Nat.add_comm, ← Nat.testBit_div_two_pow, same, Nat.testBit_div_two_pow]

theorem trigType_sub_count {w : Word} (h : (icountOf w).toNat ≠ 0) : trigType (w - (1#64 <<< 10)) = trigType w :=
  extractLsb'_eq_of_bits fun j hj => by
    rw [getLsbD_sub_count h (by omega), trigType, BitVec.getLsbD_extractLsb', decide_eq_true hj, Bool.true_and]

/-- The hit bit of an `icount` slot is bit 24, and no other bit moves with it. -/
theorem getLsbD_setHit_icount {t : TrigSlot} (type : trigType t.tdata1 = 3#4) (k : Nat) :
    (setHit t).tdata1.getLsbD k = (decide (k = 24) || t.tdata1.getLsbD k) := by
  have one : (1#64 <<< 24 : Word) = bitIf true 24 := rfl
  rw [setHit, if_pos (beq_iff_eq.2 type), BitVec.getLsbD_or, one, getLsbD_bitIf _ (by decide), Bool.or_comm, Bool.true_and]

theorem icountOf_setHit {t : TrigSlot} (type : trigType t.tdata1 = 3#4) :
    icountOf (setHit t).tdata1 = icountOf t.tdata1 :=
  extractLsb'_eq_of_bits fun j hj => by
    rw [getLsbD_setHit_icount type, decide_eq_false (by omega), Bool.false_or, icountOf, BitVec.getLsbD_extractLsb',
      decide_eq_true hj, Bool.true_and]

theorem setHit_tdata2 (t : TrigSlot) : (setHit t).tdata2 = t.tdata2 := by
  rw [setHit]
  split <;> rfl

/-- What counting down leaves in an `icount` slot whose count is not 0. -/
theorem TrigSlot.countDown_spec {t : TrigSlot} (type : trigType t.tdata1 = 3#4) (nonzero : (icountOf t.tdata1).toNat ≠ 0) :
    t.countDown.tdata2 = t.tdata2 ∧ (icountOf t.countDown.tdata1).toNat + 1 = (icountOf t.tdata1).toNat
      ∧ t.countDown.tdata1.getLsbD 24 = (decide ((icountOf t.tdata1).toNat = 1) || t.tdata1.getLsbD 24)
      ∧ ∀ k, k < 10 ∨ 25 ≤ k → t.countDown.tdata1.getLsbD k = t.tdata1.getLsbD k := by
  have counted := icountOf_sub_count nonzero
  have still : trigType (TrigSlot.mk (t.tdata1 - (1#64 <<< 10)) t.tdata2).tdata1 = 3#4 :=
    (trigType_sub_count nonzero).trans type
  have kept {k : Nat} (hk : k < 10 ∨ 24 ≤ k) := getLsbD_sub_count nonzero hk
  rw [TrigSlot.countDown]
  split <;> rename_i reached
  · have last : (icountOf t.tdata1).toNat = 1 := by rw [← counted, reached]; rfl
    refine ⟨setHit_tdata2 _, by rw [icountOf_setHit still]; exact counted, ?_, fun k hk => ?_⟩
    · rw [getLsbD_setHit_icount still, decide_eq_true rfl, decide_eq_true last, Bool.true_or, Bool.true_or]
    · rw [getLsbD_setHit_icount still, decide_eq_false (by omega), Bool.false_or]
      exact kept (by omega)
  · have more : (icountOf t.tdata1).toNat ≠ 1 := fun last =>
      reached (BitVec.eq_of_toNat_eq (Nat.succ.inj (counted.trans last)))
    refine ⟨rfl, counted, ?_, fun k hk => kept (by omega)⟩
    rw [decide_eq_false more, Bool.false_or]
    exact kept (by omega)

/-- When a slot counts an instruction, condition by condition. -/
theorem TrigSlot.counts_iff (t : TrigSlot) (c : Ctx) (i : Nat) : t.counts c i = true ↔
    trigType t.tdata1 = 3#4 ∧ icountMode t.tdata1 c.startPriv = true ∧ (icountOf t.tdata1).toNat ≠ 0
      ∧ c.slotWritten ≠ some i
      ∧ ¬ (t.tdata1.extractLsb' 0 6 ≠ 1#6 ∧ c.startPriv = .m ∧ c.startMie = false) := by
  have suppression : suppressed (icountDebug t.tdata1) c.startPriv c.startMie = false
      ↔ ¬ (t.tdata1.extractLsb' 0 6 ≠ 1#6 ∧ c.startPriv = .m ∧ c.startMie = false) := by
    simp [suppressed, icountDebug]
  have nonzero : icountOf t.tdata1 ≠ 0#14 ↔ (icountOf t.tdata1).toNat ≠ 0 := by simp [← BitVec.toNat_inj]
  rw [← suppression, ← nonzero]
  simp [TrigSlot.counts]
  tauto

theorem icountMode_eq (t : Word) (p : Priv) : icountMode t p =
    match p with
    | .m => t.getLsbD 9
    | .s => t.getLsbD 7
    | .u => t.getLsbD 6 := by
  cases p <;> rfl

theorem icountScan_slot_counts {c : Ctx} {l : List TrigSlot} {j : Nat} {t : TrigSlot} (slot : l[j]? = some t)
    (counts : t.counts c j = true) :
    (icountScan c 0 l).2[j]? = some t.countDown
      ∧ ((∃ tr ∈ (icountScan c 0 l).1, tr.slot = j) ↔ icountOf t.countDown.tdata1 = 0#14)
      ∧ ∀ tr ∈ (icountScan c 0 l).1, tr.slot = j → tr.debug = icountDebug t.tdata1 := by
  obtain ⟨-, -, slots⟩ := icountScan_spec c l 0
  simpa [counts] using slots j t slot

theorem icountScan_slot_stays {c : Ctx} {l : List TrigSlot} {j : Nat} {t : TrigSlot} (slot : l[j]? = some t)
    (idle : ¬ t.counts c j = true) :
    (icountScan c 0 l).2[j]? = some t ∧ ∀ tr ∈ (icountScan c 0 l).1, tr.slot ≠ j := by
  obtain ⟨-, -, slots⟩ := icountScan_spec c l 0
  simpa [idle] using slots j t slot

/-- A trip that enters debug mode is preferred (R771). -/
theorem arbitrate_debug {ts : List Trip} (h : ∃ tr ∈ ts, tr.debug = true) :
    ∃ tr ∈ ts, arbitrate ts = some tr ∧ tr.debug = true := by
  cases lowest : lowestTrip (ts.filter Trip.debug) with
  | none =>
    obtain ⟨tr, mem, debug⟩ := h
    have := List.mem_filter.2 ⟨mem, debug⟩
    rw [lowestTrip_eq_none.1 lowest] at this
    cases this
  | some tr =>
    obtain ⟨mem, debug⟩ := List.mem_filter.1 (lowestTrip_spec lowest).1
    exact ⟨tr, mem, by rw [arbitrate, lowest], debug⟩

theorem arbitrate_mem {ts : List Trip} (h : ts ≠ []) : ∃ tr ∈ ts, arbitrate ts = some tr := by
  cases lowest : lowestTrip (ts.filter Trip.debug) with
  | some tr => exact ⟨tr, (List.mem_filter.1 (lowestTrip_spec lowest).1).1, by rw [arbitrate, lowest]⟩
  | none =>
    obtain ⟨tr, first⟩ := Option.ne_none_iff_exists'.1 (mt lowestTrip_eq_none.1 h)
    exact ⟨tr, (lowestTrip_spec first).1, by rw [arbitrate, lowest]; exact first⟩

theorem State.countTriggers_none {s : State} (h : (icountScan s.ctx 0 s.trig).1 = []) :
    s.countTriggers = { s with trig := (icountScan s.ctx 0 s.trig).2 } := by
  rw [State.countTriggers, h]
  rfl

theorem State.countTriggers_some {s : State} {tr : Trip} (h : arbitrate (icountScan s.ctx 0 s.trig).1 = some tr) :
    s.countTriggers = { s with trig := (icountScan s.ctx 0 s.trig).2 }.triggerAction tr s.pc := by
  rw [State.countTriggers, h]

theorem State.countTriggers_trig (s : State) : s.countTriggers.trig = (icountScan s.ctx 0 s.trig).2 := by
  cases h : arbitrate (icountScan s.ctx 0 s.trig).1 with
  | none => rw [State.countTriggers_none (arbitrate_eq_none.1 h)]
  | some tr => rw [State.countTriggers_some h, State.triggerAction_trig]

/-- Settles O47: the scan counts each slot down by its own bits, and the arbitrated trip, with trap value 0, is taken. -/
theorem instructionCountRule : Obligations.InstructionCountRule := by
  refine ⟨fun l c => ?scan, fun s =>
    ⟨s.countTriggers_trig, State.countTriggers_none, fun tripped => ⟨?debug, ?breakpoint⟩⟩⟩
  case scan =>
    obtain ⟨length, trips, -⟩ := icountScan_spec c l 0
    refine ⟨length, fun tr mem => ?_, fun j t slot => ?_⟩
    · simpa using (trips tr mem).2
    · intro n action modeBit counts
      have counting : t.counts c j = true ↔ counts := by
        rw [TrigSlot.counts_iff, icountMode_eq]
        rfl
      refine ⟨fun idle => icountScan_slot_stays slot (mt counting.1 idle), fun counted => ?_⟩
      obtain ⟨new, trip, debug⟩ := icountScan_slot_counts slot (counting.2 counted)
      obtain ⟨type, -, nonzero, -⟩ := counted
      obtain ⟨tdata2, down, hit, others⟩ := TrigSlot.countDown_spec type nonzero
      refine ⟨t.countDown, new, tdata2, down, ?_, fun tr mem own => ?_, hit, others⟩
      · rw [trip, ← BitVec.toNat_inj]
        change _ ↔ (icountOf t.tdata1).toNat = 1
        rw [← down]
        simp
      · rw [debug tr mem own]
        exact beq_iff_eq
  case debug =>
    intro debug
    obtain ⟨tr, -, chosen, halts⟩ := arbitrate_debug debug
    rw [State.countTriggers_some chosen, State.triggerAction, if_pos halts]
  case breakpoint =>
    intro breakpoints
    obtain ⟨tr, mem, chosen⟩ := arbitrate_mem tripped
    obtain ⟨-, trips, -⟩ := icountScan_spec s.ctx s.trig 0
    obtain ⟨-, -, zero⟩ := trips tr mem
    rw [State.countTriggers_some chosen, State.triggerAction, breakpoints tr mem, zero]
    rfl

end Sys2Proof.Machine
end

section
/-! The host's load and store exception calls, byte by byte, and the what-if step (62_rollback_queue R806 to R819). -/

namespace Sys2Proof.Machine

/-! ## The load exception call (R806, R807, R811) -/

theorem State.applyLoadException_one {s : State} {addr tag : Word} {e : LoadEntry}
    (h : s.loadQueue.filter (LoadEntry.named addr tag) = [e]) :
    s.applyLoadException addr tag = (1, ({ (if e.valid then s.setX e.rd e.prior else s) with
      loadQueue := s.loadQueue.filter fun f => !LoadEntry.named addr tag f } : State).imprecise addr
        s.cfg.nmiCauseLoad) := by
  rw [State.applyLoadException, h]

theorem State.applyLoadException_other {s : State} {addr tag : Word}
    (h : (s.loadQueue.filter (LoadEntry.named addr tag)).length ≠ 1) :
    s.applyLoadException addr tag = ((s.loadQueue.filter (LoadEntry.named addr tag)).length, s) := by
  rw [State.applyLoadException]
  split
  · rename_i e one
    exact absurd (one ▸ rfl) h
  · rfl

/-- Giving a valid entry's register its prior value back touches the general registers alone. -/
theorem State.restore_prior (s : State) (e : LoadEntry) :
    ∃ x, (if e.valid then s.setX e.rd e.prior else s) = { s with x := x } ∧ ∀ q : Reg, { s with x := x }.readX q
      = if e.valid = true ∧ q = e.rd ∧ e.rd ≠ 0#5 then e.prior else s.readX q := by
  cases valid : e.valid with
  | false => exact ⟨s.x, rfl, fun q => by simp⟩
  | true =>
    have frame : s.setX e.rd e.prior = { s with x := (s.setX e.rd e.prior).x } := by
      unfold State.setX
      split <;> rfl
    exact ⟨_, frame, fun q => by simpa [← frame] using State.readX_setX s e.rd q e.prior⟩

/-- Settles O57: a unique match gives the register its prior value back and records the fault; any other changes nothing. -/
theorem loadExceptionCall : Obligations.LoadExceptionCall := by
  intro s addr tag m
  refine ⟨?count, fun several => by rw [State.applyLoadException_other several], fun e one => ?_⟩
  case count =>
    by_cases one : m.length = 1
    · obtain ⟨e, one⟩ := List.length_eq_one_iff.1 one
      rw [State.applyLoadException_one one, one]
      rfl
    · rw [State.applyLoadException_other one]
      rfl
  obtain ⟨x, restored, reads⟩ := s.restore_prior e
  rw [State.applyLoadException_one one, restored]
  exact ⟨reads, rfl, rfl, rfl, rfl, rfl, rfl, rfl, rfl⟩

/-! ## Rolling a byte back through the younger entries (R808) -/

theorem getElem?_replacePrior (b : Word) (old : Byte) (ps : List Word) (os : List Byte) (i : Nat) :
    (replacePrior b old ps os)[i]? = if ps[i]? = some b then os[i]?.map fun _ => old else os[i]? := by
  induction ps generalizing os i with
  | nil => simp [replacePrior]
  | cons p ps ih =>
    cases os with
    | nil => simp [replacePrior]
    | cons o os =>
      cases i with
      | zero => by_cases same : p = b <;> simp [replacePrior, same]
      | succ i => simpa [replacePrior] using ih os i

theorem length_replacePrior (b : Word) (old : Byte) (ps : List Word) (os : List Byte) :
    (replacePrior b old ps os).length = os.length := by
  induction ps generalizing os with
  | nil => simp [replacePrior]
  | cons p ps ih =>
    cases os with
    | nil => rfl
    | cons o os => simp [replacePrior, ih]

/-- The entries after the prior bytes `os` of the addresses `bs` were handed to the first of `ys` that wrote each. -/
def HandedOn (bs : List Word) (os : List Byte) (ys ys' : List StoreEntry) : Prop :=
  ys'.length = ys.length ∧ ∀ (j : Nat) (y y' : StoreEntry), ys[j]? = some y → ys'[j]? = some y' →
    y' = { y with prior := y'.prior } ∧ y'.prior.length = y.prior.length
      ∧ ∀ (i k : Nat) (p : Word), i < y.prior.length → y.phys[i]? = some p →
        (bs[k]? = some p → (∀ z ∈ ys.take j, p ∉ z.phys) → y'.prior[i]? = os[k]?)
        ∧ ((p ∉ bs ∨ ∃ z ∈ ys.take j, p ∈ z.phys) → y'.prior[i]? = y.prior[i]?)

/-- Entries with the same addresses wrote the same bytes. -/
theorem wrote_congr {ys zs : List StoreEntry} (h : zs.map StoreEntry.phys = ys.map StoreEntry.phys) (p : Word) :
    (∃ z ∈ zs, p ∈ z.phys) ↔ ∃ y ∈ ys, p ∈ y.phys := by
  have mapped (l : List StoreEntry) : (∃ z ∈ l, p ∈ z.phys) ↔ ∃ q ∈ l.map StoreEntry.phys, p ∈ q := by simp
  rw [mapped, mapped, h]

theorem HandedOn.phys {bs : List Word} {os : List Byte} {ys ys' : List StoreEntry} (h : HandedOn bs os ys ys') :
    ys'.map StoreEntry.phys = ys.map StoreEntry.phys := by
  obtain ⟨length, entries⟩ := h
  refine List.ext_getElem (by simp [length]) fun j hj' hj => ?_
  rw [List.length_map] at hj hj'
  rw [List.getElem_map, List.getElem_map,
    (entries j ys[j] ys'[j] (List.getElem?_eq_getElem hj) (List.getElem?_eq_getElem hj')).1]

theorem HandedOn.refl (ys : List StoreEntry) : HandedOn [] [] ys ys := by
  refine ⟨rfl, fun j y y' hy hy' => ?_⟩
  obtain rfl : y = y' := Option.some.inj (hy.symm.trans hy')
  exact ⟨rfl, rfl, fun i k p _ _ => ⟨fun h => (by simp at h), fun _ => rfl⟩⟩

/-- Handing on one byte and then others hands on all of them. -/
theorem HandedOn.cons {b : Word} {bs : List Word} {o : Byte} {os : List Byte} {ys ys₁ ys₂ : List StoreEntry}
    (first : HandedOn [b] [o] ys ys₁) (rest : HandedOn bs os ys₁ ys₂) (fresh : b ∉ bs) :
    HandedOn (b :: bs) (o :: os) ys ys₂ := by
  have before (j : Nat) (p : Word) : (∃ z ∈ ys₁.take j, p ∈ z.phys) ↔ ∃ z ∈ ys.take j, p ∈ z.phys :=
    wrote_congr (by rw [List.map_take, List.map_take, first.phys]) p
  have free {j : Nat} {p : Word} (h : ∀ z ∈ ys.take j, p ∉ z.phys) : ∀ z ∈ ys₁.take j, p ∉ z.phys := by
    simpa using mt (before j p).1 (by simpa using h)
  obtain ⟨length₁, entries₁⟩ := first
  obtain ⟨length₂, entries₂⟩ := rest
  refine ⟨length₂.trans length₁, fun j y y₂ hy hy₂ => ?_⟩
  obtain ⟨hj, rfl⟩ := List.getElem?_eq_some_iff.1 hy
  have hy₁ : ys₁[j]? = some ys₁[j] := List.getElem?_eq_getElem (by omega)
  obtain ⟨same₁, prior₁, bytes₁⟩ := entries₁ j _ _ hy hy₁
  obtain ⟨same₂, prior₂, bytes₂⟩ := entries₂ j _ _ hy₁ hy₂
  have phys₁ : ys₁[j].phys = ys[j].phys := by rw [same₁]
  refine ⟨by rw [same₂, same₁], prior₂.trans prior₁, fun i k p hi hp => ?_⟩
  have one (k : Nat) := bytes₁ i k p hi hp
  have others (k : Nat) := bytes₂ i k p (prior₁ ▸ hi) (phys₁ ▸ hp)
  refine ⟨fun named unwritten => ?_, fun kept => ?_⟩
  · cases k with
    | zero =>
      obtain rfl : b = p := by simpa using named
      rw [(others 0).2 (.inl fresh)]
      exact (one 0).1 rfl unwritten
    | succ k => exact (others k).1 named (free unwritten)
  · rw [(others 0).2 (kept.imp (fun h => List.not_mem_of_not_mem_cons h) (before j p).2)]
    exact (one 0).2 (kept.imp_left fun h => by simpa using List.ne_of_not_mem_cons h)

theorem getElem?_singleton_eq_some {b p : Word} {k : Nat} : [b][k]? = some p ↔ k = 0 ∧ b = p := by
  cases k <;> simp

/-- Rolling one byte back hands it to the first entry that wrote it. -/
theorem handedOn_rollByte (b : Word) (o : Byte) (ys : List StoreEntry) : HandedOn [b] [o] ys (rollByte b o ys).1 := by
  induction ys with
  | nil => exact ⟨rfl, fun j y y' hy => by simp at hy⟩
  | cons y rest ih =>
    obtain ⟨length, entries⟩ := ih
    rw [rollByte]
    split <;> rename_i wrote
    · refine ⟨rfl, fun j z z' hz hz' => ?_⟩
      cases j with
      | zero =>
        obtain rfl : y = z := by simpa using hz
        obtain rfl : { y with prior := replacePrior b o y.phys y.prior } = z' := by simpa using hz'
        refine ⟨rfl, length_replacePrior b o y.phys y.prior, fun i k p hi hp => ?_⟩
        rw [getElem?_replacePrior, hp]
        refine ⟨fun named _ => ?_, fun kept => ?_⟩
        · obtain ⟨rfl, rfl⟩ := getElem?_singleton_eq_some.1 named
          simp [List.getElem?_eq_getElem hi]
        · refine if_neg fun same => ?_
          obtain rfl : p = b := Option.some.inj same
          simp at kept
      | succ j =>
        obtain rfl : z = z' := Option.some.inj (hz.symm.trans hz')
        refine ⟨rfl, rfl, fun i k p hi hp => ⟨fun named unwritten => ?_, fun _ => rfl⟩⟩
        obtain ⟨-, rfl⟩ := getElem?_singleton_eq_some.1 named
        exact absurd (by simpa using wrote) (unwritten y (by simp))
    · have absent : b ∉ y.phys := by simpa using wrote
      refine ⟨by simp [length], fun j z z' hz hz' => ?_⟩
      cases j with
      | zero =>
        obtain rfl : y = z := by simpa using hz
        obtain rfl : y = z' := by simpa using hz'
        refine ⟨rfl, rfl, fun i k p hi hp => ⟨fun named _ => ?_, fun _ => rfl⟩⟩
        obtain ⟨-, rfl⟩ := getElem?_singleton_eq_some.1 named
        exact absurd (List.mem_of_getElem? hp) absent
      | succ j =>
        obtain ⟨same, prior, bytes⟩ := entries j z z' (by simpa using hz) (by simpa using hz')
        refine ⟨same, prior, fun i k p hi hp => ⟨fun named unwritten => ?_, fun kept => ?_⟩⟩
        · exact (bytes i k p hi hp).1 named fun z hz => unwritten z (by simp [hz])
        · refine (bytes i k p hi hp).2 ?_
          rcases Classical.em (p = b) with rfl | other
          · right
            simpa [absent] using kept
          · exact .inl (by simpa using other)

/-- A byte reaches memory exactly when no entry wrote it. -/
theorem rollByte_reaches (b : Word) (o : Byte) (ys : List StoreEntry) :
    (rollByte b o ys).2 = true ↔ ∀ y ∈ ys, b ∉ y.phys := by
  induction ys with
  | nil => simp [rollByte]
  | cons y rest ih =>
    rw [rollByte]
    split <;> rename_i wrote
    · simpa using fun absent => absurd (by simpa using wrote) absent
    · simp [ih, show b ∉ y.phys by simpa using wrote]

/-! ## Rolling a store back -/

/-- A byte of plain memory that no entry wrote is put back, and nothing else moves. -/
theorem State.rollByte_memory {s : State} (hw : s.mem.wf) {b : Word} (plain : s.cfg.nonIdempotent b = false) (o : Byte)
    (ys : List StoreEntry) :
    ∃ m : Memory, (if (rollByte b o ys).2 then (s.touch [b]).setPhysByte b o else s) = { s with mem := m } ∧ m.wf
      ∧ ((∀ y ∈ ys, b ∉ y.phys) → m.read b.toNat = o)
      ∧ ∀ a, (a = b.toNat → ∃ y ∈ ys, b ∈ y.phys) → m.read a = s.mem.read a := by
  by_cases free : ∀ y ∈ ys, b ∉ y.phys
  · obtain ⟨clint, device⟩ : s.cfg.inClint b = false ∧ s.cfg.isMmr b.toNat = false := by
      simpa [Config.nonIdempotent] using plain
    rw [if_pos ((rollByte_reaches b o ys).2 free)]
    refine ⟨s.mem.write b.toNat o, ?_, Memory.wf_write hw _ _, fun _ => Memory.read_write_same hw _ _, fun a other => ?_⟩
    · simp [State.touch, State.setPhysByte, clint, device]
    · refine Memory.read_write_other hw (fun same => ?_) o
      obtain ⟨y, mem, wrote⟩ := other same
      exact free y mem wrote
  · rw [if_neg (mt (rollByte_reaches b o ys).1 free)]
    exact ⟨s.mem, rfl, hw, fun h => absurd h free, fun _ _ => rfl⟩

/-- What rolling bytes of plain memory back does, in memory and in the younger entries. -/
structure RolledBack (bs : List Word) (os : List Byte) (s : State) (ys : List StoreEntry) (m : Memory)
    (left : List StoreEntry) : Prop where
  restored : ∀ (k : Nat) (p : Word), bs[k]? = some p → (∀ y ∈ ys, p ∉ y.phys) → some (m.read p.toNat) = os[k]?
  kept : ∀ a, (∀ p ∈ bs, p.toNat = a → ∃ y ∈ ys, p ∈ y.phys) → m.read a = s.mem.read a
  queue : HandedOn bs os ys left

theorem rollBytes_spec {s : State} (hw : s.mem.wf) {bs : List Word} {os : List Byte} (ys : List StoreEntry)
    (nodup : bs.Nodup) (length : bs.length = os.length) (plain : ∀ p ∈ bs, s.cfg.nonIdempotent p = false) :
    ∃ m left, rollBytes s ys bs os = ({ s with mem := m }, left) ∧ RolledBack bs os s ys m left := by
  induction bs generalizing s os ys with
  | nil =>
    obtain rfl : os = [] := List.length_eq_zero_iff.1 length.symm
    exact ⟨s.mem, ys, rfl, fun k p h => by simp at h, fun _ _ => rfl, HandedOn.refl ys⟩
  | cons b bs ih =>
    obtain ⟨o, os, rfl⟩ := List.exists_cons_of_length_eq_add_one length.symm
    obtain ⟨fresh, nodup⟩ := List.nodup_cons.1 nodup
    obtain ⟨m₁, first, hw₁, put, still⟩ := State.rollByte_memory hw (plain b (by simp)) o ys
    have handed := handedOn_rollByte b o ys
    have wrote := wrote_congr handed.phys
    obtain ⟨m, left, rolled, rest⟩ := ih (s := { s with mem := m₁ }) hw₁ (rollByte b o ys).1 nodup
      (Nat.succ.inj length) fun p hp => plain p (by simp [hp])
    obtain ⟨restored, kept, queue⟩ := rest
    refine ⟨m, left, by rw [rollBytes, first]; exact rolled, fun k p named free => ?_, fun a h => ?_,
      handed.cons queue fresh⟩
    · cases k with
      | zero =>
        obtain rfl : b = p := by simpa using named
        have others : ∀ q ∈ bs, q.toNat = b.toNat → ∃ y ∈ (rollByte b o ys).1, q ∈ y.phys :=
          fun q hq same => absurd (BitVec.eq_of_toNat_eq same ▸ hq) fresh
        rw [kept b.toNat others]
        exact congrArg some (put free)
      | succ k => exact restored k p named (by simpa using mt (wrote p).1 (by simpa using free))
    · have later : m.read a = m₁.read a := kept a fun p hp same => (wrote p).2 (h p (by simp [hp]) same)
      exact later.trans (still a fun same => h b (by simp) same.symm)

/-! ## The store exception call (R808) -/

theorem splitAt_append {addr : Word} {older younger : List StoreEntry} {e : StoreEntry}
    (h : ∀ y ∈ older, y.addr ≠ addr) (named : e.addr = addr) :
    splitAt addr (older ++ e :: younger) = (older, younger) := by
  induction older with
  | nil => simp [splitAt, named]
  | cons y older ih =>
    have rest := ih fun z hz => h z (by simp [hz])
    simp [splitAt, h y (by simp), rest]

/-- The one entry at an address splits the queue. -/
theorem splitAt_of_unique {addr : Word} {older younger : List StoreEntry} {e : StoreEntry}
    (one : (older ++ e :: younger).filter (fun f => f.addr == addr) = [e]) :
    splitAt addr (older ++ e :: younger) = (older, younger) := by
  have named : (e.addr == addr) = true := by
    have : e ∈ (older ++ e :: younger).filter (fun f => f.addr == addr) := by rw [one]; simp
    exact (List.mem_filter.1 this).2
  have older_others : older.filter (fun f => f.addr == addr) = [] := by
    have := congrArg List.length one
    simp only [List.filter_append, List.filter_cons, named, if_true, List.length_append, List.length_cons,
      List.length_nil] at this
    exact List.length_eq_zero_iff.1 (by omega)
  refine splitAt_append (fun y hy same => ?_) (beq_iff_eq.1 named)
  have := List.filter_eq_nil_iff.1 older_others y hy
  exact this (beq_iff_eq.2 same)

theorem State.applyStoreException_one {s : State} {addr : Word} {e : StoreEntry}
    (h : s.storeQueue.filter (fun f => f.addr == addr) = [e]) :
    s.applyStoreException addr = (1, ({ (rollBytes s (splitAt addr s.storeQueue).2 e.phys e.prior).1 with
      storeQueue := (splitAt addr s.storeQueue).1 ++ (rollBytes s (splitAt addr s.storeQueue).2 e.phys e.prior).2 } :
        State).imprecise addr s.cfg.nmiCauseStore) := by
  rw [State.applyStoreException, h]

theorem State.applyStoreException_other {s : State} {addr : Word}
    (h : (s.storeQueue.filter fun f => f.addr == addr).length ≠ 1) :
    s.applyStoreException addr = ((s.storeQueue.filter fun f => f.addr == addr).length, s) := by
  rw [State.applyStoreException]
  split
  · rename_i e one
    exact absurd (one ▸ rfl) h
  · rfl

/-- Settles O58: a unique match is rolled back byte by byte, and any other count changes nothing. -/
theorem storeExceptionCall : Obligations.StoreExceptionCall := by
  intro s addr m
  refine ⟨?count, fun several => by rw [State.applyStoreException_other several],
    fun older younger e one split hw nodup length plain => ?_⟩
  case count =>
    by_cases one : m.length = 1
    · obtain ⟨e, one⟩ := List.length_eq_one_iff.1 one
      rw [State.applyStoreException_one one, one]
      rfl
    · rw [State.applyStoreException_other one]
  have parts : splitAt addr s.storeQueue = (older, younger) := by
    rw [split]
    exact splitAt_of_unique (split ▸ one)
  obtain ⟨memory, left, rolled, restored, kept, queue⟩ := rollBytes_spec hw younger nodup length plain
  rw [State.applyStoreException_one one, parts, rolled]
  refine ⟨fun k h free => restored k _ (List.getElem?_eq_getElem h) free, fun b other => ?_, fun p hp written => ?_,
    ⟨left, rfl, queue⟩, rfl, rfl, rfl, rfl, rfl, rfl⟩
  · exact kept b fun p hp same => absurd same (other p hp)
  · exact kept p.toNat fun q _ same => BitVec.eq_of_toNat_eq same ▸ written

/-! ## The what-if step (R815, R818, R819) -/

/-- Settles O59: the revert keeps the state before but for the counts and the tick of the probe. -/
theorem whatIfLeavesTheHartAsItWas : Obligations.WhatIfLeavesTheHartAsItWas :=
  fun _ _ _ => ⟨rfl, Iff.rfl, rfl⟩

end Sys2Proof.Machine
end

section
/-! What reset leaves: every value, the invariants, and that nothing precedes the first fetch (70_reset_and_hazards R830
to R832). -/

namespace Sys2Proof.Machine

/-! ## The values (R830) -/

theorem Config.mstatusReset_eq (c : Config) : c.mstatusReset
    = (if c.extS then 0x800001800#64 else 0x1800#64) ||| (if c.extU then 0x200000000#64 else 0#64) := by
  rw [Config.mstatusReset]
  cases c.extS <;> cases c.extU <;> rfl

/-- The indexed CSRs are 0 after reset. -/
theorem State.csrRead_resetWith_indexed (c : Config) :
    (∀ i, (State.resetWith c).csrRead (.mhpmevent i) = 0#64 ∧ (State.resetWith c).csrRead (.mhpmcounter i) = 0#64)
      ∧ ∀ i, (State.resetWith c).csrRead (.pmpaddr i) = 0#64 :=
  ⟨fun i => ⟨Vector.getElem_replicate i.isLt, Vector.getElem_replicate i.isLt⟩,
    fun i => Vector.getElem_replicate i.isLt⟩

theorem Config.misa_eq (c : Config) : c.misa = 0x8000000000000100#64 ||| (if c.extM then 0x1000#64 else 0#64)
    ||| (if c.extC then 0x4#64 else 0#64) ||| (if c.extS then 0x40000#64 else 0#64)
    ||| (if c.extU then 0x100000#64 else 0#64) := rfl

theorem meihap_zero : ((0#64 : Word) &&& 0xFFFFFFFFFFFFFC00#64) ||| (zext (0#8) <<< 2) = 0#64 := by decide

/-- Settles O54: each value is that of the reset state, by its definition or the lemmas above. -/
theorem resetValues : Obligations.ResetValues := by
  intro c s
  obtain ⟨counters, pmpaddr⟩ := State.csrRead_resetWith_indexed c
  have zeros : ∀ r ∈ [Csr.medeleg, .mideleg, .mie, .mcounteren, .scounteren, .mcountinhibit, .mscratch, .mepc, .mcause,
      .mtval, .mip, .pmpcfg0, .pmpcfg2, .mcycle, .minstret, .stvec, .sscratch, .sepc, .scause, .stval, .satp,
      .tselect, .dpc, .dscratch0, .dscratch1, .mscause, .meivt, .mdseac, .meihap], s.csrRead r = 0#64 := by
    simp only [List.forall_mem_cons]
    exact ⟨rfl, rfl, rfl, rfl, rfl, rfl, rfl, rfl, rfl, rfl, rfl, rfl, rfl, rfl, rfl, rfl, rfl, rfl, rfl, rfl, rfl, rfl,
      rfl, rfl, rfl, rfl, rfl, rfl, meihap_zero, nofun⟩
  refine ⟨rfl, rfl, rfl, rfl, c.mstatusReset_eq, rfl, rfl, zeros, counters, pmpaddr, c.misa_eq, rfl, rfl, rfl, rfl, rfl,
    rfl, rfl, BitVec.zero_and, BitVec.zero_and, rfl, rfl, rfl, rfl, rfl, rfl, rfl, rfl,
    rfl, rfl, rfl, rfl, rfl, rfl, rfl, rfl, rfl⟩

/-! ## The invariants (R58, R71) -/

theorem within_zero (m : Word) : within 0#64 m := BitVec.zero_and

theorem Config.pcAligned_zero (c : Config) : c.pcAligned 0#64 = true := by
  rw [Config.pcAligned]
  cases c.extC <;> rfl

theorem Config.resetPc_aligned {c : Config} (h : c.admitted = true) : c.pcAligned c.resetPc = true := by
  simp only [Config.admitted, Bool.and_eq_true] at h
  obtain ⟨-, -, -, -, aligned, -⟩ := h
  exact aligned

theorem Config.mpp_mstatusReset (c : Config) : mppOf c.mstatusReset = 3#2 := by
  rw [Config.mstatusReset]
  cases c.extS <;> cases c.extU <;> rfl

theorem State.inv_resetWith {c : Config} (h : c.admitted = true) : (State.resetWith c).Inv where
  admitted := h
  memWf := Memory.wf_nil
  pcAligned := Config.resetPc_aligned h
  mepcAligned := c.pcAligned_zero
  sepcAligned := c.pcAligned_zero
  dpcAligned := c.pcAligned_zero
  privLegal := rfl
  mppLegal := congrArg c.modeLegal c.mpp_mstatusReset
  dcsrPrvLegal := congrArg c.modeLegal (show (0x40000003#64).extractLsb' 0 2 = 3#2 by decide)

/-- Of the writable bits of `mstatus` reset sets MPP alone. -/
theorem Config.mstatusReset_reserved (c : Config) :
    c.mstatusReset &&& ~~~(c.mstatusMask ||| 0x1800#64) = c.mstatusReset &&& ~~~0x1800#64 := by
  rw [Config.mstatusReset, Config.mstatusMask]
  cases c.extS <;> cases c.extU <;> rfl

theorem State.reserved_resetWith (c : Config) : (State.resetWith c).Reserved where
  mstatus := c.mstatusReset_reserved
  medeleg := within_zero _
  mideleg := within_zero _
  mie := within_zero _
  mip := within_zero _
  mtvec := by simp [State.resetWith, CsrFile.reset]
  stvec := BitVec.getLsbD_zero
  mscause := within_zero _

theorem State.bounded_resetWith (c : Config) : (State.resetWith c).Bounded where
  slots := List.length_replicate
  tselect := .inr rfl
  loadDepth := Nat.zero_le _
  loadOff := fun _ => rfl
  storeDepth := Nat.zero_le _

theorem State.idle_resetWith (c : Config) : (State.resetWith c).Idle where
  ctx := rfl
  halted := nofun
  done := rfl

/-- Settles O53: the alignment of RESET_PC is part of an admitted configuration, and the rest are reset values. -/
theorem resetSatisfiesEveryInvariant : Obligations.ResetSatisfiesEveryInvariant := fun c h =>
  ⟨State.inv_resetWith h, State.reserved_resetWith c, State.bounded_resetWith c, State.idle_resetWith c⟩

/-! ## The first step (R832) -/

/-- A slot after reset is set to compare nothing (R759). -/
theorem TrigKind.not_selected_reset (k : TrigKind) : k.selected TrigSlot.reset.tdata1 = false := by cases k <;> decide

theorem State.quiet_resetWith (c : Config) (k : TrigKind) : (State.resetWith c).quiet k = true := by
  refine List.all_eq_true.2 fun t ht => ?_
  obtain rfl : t = TrigSlot.reset := List.eq_of_mem_replicate ht
  simp [k.not_selected_reset]

/-- Nothing is ready where no interrupt is enabled. -/
theorem State.selectInterrupt_of_mie_zero {s : State} (h : s.csr.mie = 0#64) : s.selectInterrupt = none := by
  refine State.selectInterrupt_eq_none.2 (.inr fun i => ?_)
  constructor <;> simp [State.readyToM, State.readyToS, h]

/-- Settles O55: no interrupt is enabled, no request is pending, and no slot is set to compare. -/
theorem firstStepAfterResetFetches : Obligations.FirstStepAfterResetFetches := by
  intro c admitted elsewhere
  refine ⟨?_, fun k v tm w => by rw [State.triggerEval_quiet (State.quiet_resetWith c k)]⟩
  have begun : (State.resetWith c).beginStep.csr.mie = 0#64 := by
    obtain ⟨_, _, begins⟩ := (State.resetWith c).beginStep_eq
    rw [begins]
    rfl
  exact {
    admitted := admitted
    running := rfl
    notHalted := rfl
    notStop := elsewhere
    noHalt := rfl
    noNmi := rfl
    noIrq := State.selectInterrupt_of_mie_zero begun
    quietAddr := State.quiet_resetWith c .execAddr
    quietOpcode := State.quiet_resetWith c .execOpcode }

end Sys2Proof.Machine
end
